-- ==== Sys2Proof/Word.lean ====
section
/-! DEFINITION. The bit-vector types of the core: what the spec treats as bits (00_scope.md §5, R7). -/

namespace Sys2Proof

/-- A byte: a general register, a timer, a memory cell (R7: REG_W, TIMER_W). -/
abbrev Byte := BitVec 8

/-- An instruction word (R7: OPCODE_W; R70). -/
abbrev Word := BitVec 16

/-- An address at the core's port (R7: ADDR_W, I_W, PC_W, SP_W). -/
abbrev Addr := BitVec 16

/-- A four-bit field: a register index (R20, R71), a sprite height, or a key (R7: KEY_COUNT). -/
abbrev Nibble := BitVec 4

/-- The index of a general register, 0x0 to 0xF (R20). -/
abbrev Reg := Nibble

end Sys2Proof
end

