-- ==== Sys2Proof/Syntax.lean ====
section
/-! DEFINITION. The 34 instructions (30_encoding.md R73), their formats (R79) and mnemonics (R78). -/

namespace Sys2Proof

/-- One constructor per row of the opcode table (R73). A field carries its width in its type (R71), so every
term is an instruction the core can encode. -/
inductive Instr where
  /-- 00E0, R100. -/
  | clearDisplay
  /-- 00EE, R111. -/
  | ret
  /-- 1nnn, R112. -/
  | jump (nnn : BitVec 12)
  /-- 2nnn, R113. -/
  | call (nnn : BitVec 12)
  /-- 3xkk, R114. -/
  | skipEqImm (x : Reg) (kk : Byte)
  /-- 4xkk, R115. -/
  | skipNeImm (x : Reg) (kk : Byte)
  /-- 5xy0, R116. -/
  | skipEqReg (x y : Reg)
  /-- 6xkk, R131. -/
  | loadImm (x : Reg) (kk : Byte)
  /-- 7xkk, R132. -/
  | addImm (x : Reg) (kk : Byte)
  /-- 8xy0, R133. -/
  | move (x y : Reg)
  /-- 8xy1, R134. -/
  | orReg (x y : Reg)
  /-- 8xy2, R135. -/
  | andReg (x y : Reg)
  /-- 8xy3, R136. -/
  | xorReg (x y : Reg)
  /-- 8xy4, R137. -/
  | addCarry (x y : Reg)
  /-- 8xy5, R138. -/
  | sub (x y : Reg)
  /-- 8xy6, R139: the word carries `y` and the meaning ignores it. -/
  | shiftRight (x y : Reg)
  /-- 8xy7, R140. -/
  | subReversed (x y : Reg)
  /-- 8xyE, R141: the word carries `y` and the meaning ignores it. -/
  | shiftLeft (x y : Reg)
  /-- 9xy0, R117. -/
  | skipNeReg (x y : Reg)
  /-- Annn, R151. -/
  | loadIndex (nnn : BitVec 12)
  /-- Bnnn, R118. -/
  | jumpV0 (nnn : BitVec 12)
  /-- Cxkk, R142. -/
  | random (x : Reg) (kk : Byte)
  /-- Dxyn, R101. -/
  | draw (x y : Reg) (n : Nibble)
  /-- Ex9E, R171. -/
  | skipIfKey (x : Reg)
  /-- ExA1, R172. -/
  | skipIfNotKey (x : Reg)
  /-- Fx07, R173. -/
  | readDelay (x : Reg)
  /-- Fx0A, R174. -/
  | waitKey (x : Reg)
  /-- Fx15, R176. -/
  | writeDelay (x : Reg)
  /-- Fx18, R177. -/
  | writeSound (x : Reg)
  /-- Fx1E, R152. -/
  | addIndex (x : Reg)
  /-- Fx29, R153. -/
  | fontAddress (x : Reg)
  /-- Fx33, R154. -/
  | bcd (x : Reg)
  /-- Fx55, R155. -/
  | dump (x : Reg)
  /-- Fx65, R156. -/
  | load (x : Reg)
  deriving DecidableEq, Repr

/-- The names of the 34 rows of the opcode table, each the constructor's own (R73, R78). -/
inductive Mnemonic where
  | clearDisplay | ret | jump | call | skipEqImm | skipNeImm | skipEqReg | loadImm | addImm
  | move | orReg | andReg | xorReg | addCarry | sub | shiftRight | subReversed | shiftLeft
  | skipNeReg | loadIndex | jumpV0 | random | draw | skipIfKey | skipIfNotKey
  | readDelay | waitKey | writeDelay | writeSound | addIndex | fontAddress | bcd | dump | load
  deriving DecidableEq, Repr

/-- The six instruction formats (R79). -/
inductive Format where
  /-- No field. -/
  | Z
  /-- A 12-bit address. -/
  | NNN
  /-- A register and an 8-bit immediate. -/
  | XKK
  /-- Two registers. -/
  | XY
  /-- Two registers and a sprite height. -/
  | XYN
  /-- One register. -/
  | X
  deriving DecidableEq, Repr

/-- The row an instruction belongs to. -/
def Instr.mnemonic : Instr → Mnemonic
  | .clearDisplay => .clearDisplay
  | .ret => .ret
  | .jump _ => .jump
  | .call _ => .call
  | .skipEqImm _ _ => .skipEqImm
  | .skipNeImm _ _ => .skipNeImm
  | .skipEqReg _ _ => .skipEqReg
  | .loadImm _ _ => .loadImm
  | .addImm _ _ => .addImm
  | .move _ _ => .move
  | .orReg _ _ => .orReg
  | .andReg _ _ => .andReg
  | .xorReg _ _ => .xorReg
  | .addCarry _ _ => .addCarry
  | .sub _ _ => .sub
  | .shiftRight _ _ => .shiftRight
  | .subReversed _ _ => .subReversed
  | .shiftLeft _ _ => .shiftLeft
  | .skipNeReg _ _ => .skipNeReg
  | .loadIndex _ => .loadIndex
  | .jumpV0 _ => .jumpV0
  | .random _ _ => .random
  | .draw _ _ _ => .draw
  | .skipIfKey _ => .skipIfKey
  | .skipIfNotKey _ => .skipIfNotKey
  | .readDelay _ => .readDelay
  | .waitKey _ => .waitKey
  | .writeDelay _ => .writeDelay
  | .writeSound _ => .writeSound
  | .addIndex _ => .addIndex
  | .fontAddress _ => .fontAddress
  | .bcd _ => .bcd
  | .dump _ => .dump
  | .load _ => .load

/-- The format of a row (R79). -/
def Mnemonic.format : Mnemonic → Format
  | .clearDisplay | .ret => .Z
  | .jump | .call | .loadIndex | .jumpV0 => .NNN
  | .skipEqImm | .skipNeImm | .loadImm | .addImm | .random => .XKK
  | .skipEqReg | .skipNeReg | .move | .orReg | .andReg | .xorReg | .addCarry | .sub
  | .shiftRight | .subReversed | .shiftLeft => .XY
  | .draw => .XYN
  | .skipIfKey | .skipIfNotKey | .readDelay | .waitKey | .writeDelay | .writeSound
  | .addIndex | .fontAddress | .bcd | .dump | .load => .X

end Sys2Proof
end

