-- ==== Sys2Proof/WellFormed.lean ====
section
/-! DEFINITION. Which assembler lines are instructions (30_encoding.md R78). An `Instr` carries its field widths
in its type, so every `Instr` is well formed; what can be ill formed is the line an assembler is given, whose
operands are plain numbers. Each check refuses by name. -/

namespace Sys2Proof

/-- An operand as written: a register `Vi`, or a number (R78). -/
inductive Operand where
  | v (index : Nat)
  | imm (value : Nat)
  deriving DecidableEq, Repr

/-- One assembler line: a mnemonic and its operands in the order R78 writes them. -/
structure AsmLine where
  mnemonic : Mnemonic
  operands : List Operand
  deriving DecidableEq, Repr

/-- Why an assembler refuses a line. -/
inductive AsmError where
  /-- The operands are not those of the row's format (R78, R79): too few, too many or of the wrong kind. -/
  | operandShape
  /-- A register index above 15 (R20). -/
  | noSuchRegister
  /-- An `nnn` operand above 0xFFF (R78). -/
  | addressTooWide
  /-- A `kk` operand above 0xFF (R78). -/
  | immediateTooWide
  /-- An `n` operand above 0xF (R78). -/
  | heightTooWide
  /-- A data byte above 0xFF (R78). -/
  | byteTooWide
  deriving DecidableEq, Repr

/-- The check of a line: `none` when it is well formed, else the first reason it is refused. -/
def AsmLine.check (l : AsmLine) : Option AsmError :=
  match l.mnemonic.format, l.operands with
  | .Z, [] => none
  | .NNN, [.imm a] => if a < 4096 then none else some .addressTooWide
  | .XKK, [.v x, .imm k] =>
    if 16 ≤ x then some .noSuchRegister else if k < 256 then none else some .immediateTooWide
  | .XY, [.v x, .v y] => if x < 16 ∧ y < 16 then none else some .noSuchRegister
  | .XYN, [.v x, .v y, .imm n] =>
    if 16 ≤ x ∨ 16 ≤ y then some .noSuchRegister else if n < 16 then none else some .heightTooWide
  | .X, [.v x] => if x < 16 then none else some .noSuchRegister
  | _, _ => some .operandShape

/-- A line an assembler accepts. -/
abbrev AsmLine.WellFormed (l : AsmLine) : Prop := l.check = none

/-- The line R78 writes for an instruction. -/
def Instr.line : Instr → AsmLine
  | .clearDisplay => ⟨.clearDisplay, []⟩
  | .ret => ⟨.ret, []⟩
  | .jump nnn => ⟨.jump, [.imm nnn.toNat]⟩
  | .call nnn => ⟨.call, [.imm nnn.toNat]⟩
  | .skipEqImm x kk => ⟨.skipEqImm, [.v x.toNat, .imm kk.toNat]⟩
  | .skipNeImm x kk => ⟨.skipNeImm, [.v x.toNat, .imm kk.toNat]⟩
  | .skipEqReg x y => ⟨.skipEqReg, [.v x.toNat, .v y.toNat]⟩
  | .loadImm x kk => ⟨.loadImm, [.v x.toNat, .imm kk.toNat]⟩
  | .addImm x kk => ⟨.addImm, [.v x.toNat, .imm kk.toNat]⟩
  | .move x y => ⟨.move, [.v x.toNat, .v y.toNat]⟩
  | .orReg x y => ⟨.orReg, [.v x.toNat, .v y.toNat]⟩
  | .andReg x y => ⟨.andReg, [.v x.toNat, .v y.toNat]⟩
  | .xorReg x y => ⟨.xorReg, [.v x.toNat, .v y.toNat]⟩
  | .addCarry x y => ⟨.addCarry, [.v x.toNat, .v y.toNat]⟩
  | .sub x y => ⟨.sub, [.v x.toNat, .v y.toNat]⟩
  | .shiftRight x y => ⟨.shiftRight, [.v x.toNat, .v y.toNat]⟩
  | .subReversed x y => ⟨.subReversed, [.v x.toNat, .v y.toNat]⟩
  | .shiftLeft x y => ⟨.shiftLeft, [.v x.toNat, .v y.toNat]⟩
  | .skipNeReg x y => ⟨.skipNeReg, [.v x.toNat, .v y.toNat]⟩
  | .loadIndex nnn => ⟨.loadIndex, [.imm nnn.toNat]⟩
  | .jumpV0 nnn => ⟨.jumpV0, [.imm nnn.toNat]⟩
  | .random x kk => ⟨.random, [.v x.toNat, .imm kk.toNat]⟩
  | .draw x y n => ⟨.draw, [.v x.toNat, .v y.toNat, .imm n.toNat]⟩
  | .skipIfKey x => ⟨.skipIfKey, [.v x.toNat]⟩
  | .skipIfNotKey x => ⟨.skipIfNotKey, [.v x.toNat]⟩
  | .readDelay x => ⟨.readDelay, [.v x.toNat]⟩
  | .waitKey x => ⟨.waitKey, [.v x.toNat]⟩
  | .writeDelay x => ⟨.writeDelay, [.v x.toNat]⟩
  | .writeSound x => ⟨.writeSound, [.v x.toNat]⟩
  | .addIndex x => ⟨.addIndex, [.v x.toNat]⟩
  | .fontAddress x => ⟨.fontAddress, [.v x.toNat]⟩
  | .bcd x => ⟨.bcd, [.v x.toNat]⟩
  | .dump x => ⟨.dump, [.v x.toNat]⟩
  | .load x => ⟨.load, [.v x.toNat]⟩

end Sys2Proof
end

