-- ==== Sys2Proof/Decode.lean ====
section
/-! DEFINITION. Fields, the opcode table, the decoder, the encoder and the assembler's placement of operands
(30_encoding.md R70 to R79). Decoding is total: every word is an instruction or is unmatched, by name. -/

namespace Sys2Proof

/-- Field `c`, `w[15:12]`: the primary command selector (R71). -/
def fieldC (w : Word) : Nibble := w.extractLsb' 12 4

/-- Field `x`, `w[11:8]` (R71). -/
def fieldX (w : Word) : Nibble := w.extractLsb' 8 4

/-- Field `y`, `w[7:4]` (R71). -/
def fieldY (w : Word) : Nibble := w.extractLsb' 4 4

/-- Field `n`, `w[3:0]` (R71). -/
def fieldN (w : Word) : Nibble := w.extractLsb' 0 4

/-- Field `kk`, `w[7:0]` (R71). -/
def fieldKK (w : Word) : Byte := w.extractLsb' 0 8

/-- Field `nnn`, `w[11:0]` (R71). -/
def fieldNNN (w : Word) : BitVec 12 := w.extractLsb' 0 12

/-- The word whose four nibbles are `c`, `x`, `y` and `n` (R71). -/
def wordOf (c x y n : Nibble) : Word := c ++ x ++ y ++ n

/-- `kk` is `y ++ n` (R71). -/
def kkOf (y n : Nibble) : Byte := y ++ n

/-- `nnn` is `x`, `y`, `n` (R71). -/
def nnnOf (x y n : Nibble) : BitVec 12 := x ++ y ++ n

/-- The word with selector `c`, register `x` and immediate `kk` (format XKK, R79). -/
def wordXKK (c x : Nibble) (kk : Byte) : Word :=
  wordOf c x (kk.extractLsb' 4 4) (kk.extractLsb' 0 4)

/-- The word with selector `c` and address `nnn` (format NNN, R79). -/
def wordNNN (c : Nibble) (nnn : BitVec 12) : Word :=
  wordOf c (nnn.extractLsb' 8 4) (nnn.extractLsb' 4 4) (nnn.extractLsb' 0 4)

/-- What a word means to the core: one of the 34 instructions, or the no-op of R74. -/
inductive Decoded where
  | instr (i : Instr)
  /-- No pattern of R73 matches; `c` is the primary selector of the word (R76). -/
  | unmatched (c : Nibble)
  deriving DecidableEq, Repr

/-- The decoder on the four nibbles of a word, one group of R76 an arm; every fixed digit is compared (R73, D13). -/
def decodeNibbles (c x y n : Nibble) : Decoded :=
  match c.toNat with
  | 0x0 =>
    if x = 0x0 ∧ y = 0xE ∧ n = 0x0 then .instr .clearDisplay
    else if x = 0x0 ∧ y = 0xE ∧ n = 0xE then .instr .ret
    else .unmatched c
  | 0x1 => .instr (.jump (nnnOf x y n))
  | 0x2 => .instr (.call (nnnOf x y n))
  | 0x3 => .instr (.skipEqImm x (kkOf y n))
  | 0x4 => .instr (.skipNeImm x (kkOf y n))
  | 0x5 => if n = 0x0 then .instr (.skipEqReg x y) else .unmatched c
  | 0x6 => .instr (.loadImm x (kkOf y n))
  | 0x7 => .instr (.addImm x (kkOf y n))
  | 0x8 =>
    match n.toNat with
    | 0x0 => .instr (.move x y)
    | 0x1 => .instr (.orReg x y)
    | 0x2 => .instr (.andReg x y)
    | 0x3 => .instr (.xorReg x y)
    | 0x4 => .instr (.addCarry x y)
    | 0x5 => .instr (.sub x y)
    | 0x6 => .instr (.shiftRight x y)
    | 0x7 => .instr (.subReversed x y)
    | 0xE => .instr (.shiftLeft x y)
    | _ => .unmatched c
  | 0x9 => if n = 0x0 then .instr (.skipNeReg x y) else .unmatched c
  | 0xA => .instr (.loadIndex (nnnOf x y n))
  | 0xB => .instr (.jumpV0 (nnnOf x y n))
  | 0xC => .instr (.random x (kkOf y n))
  | 0xD => .instr (.draw x y n)
  | 0xE =>
    if y = 0x9 ∧ n = 0xE then .instr (.skipIfKey x)
    else if y = 0xA ∧ n = 0x1 then .instr (.skipIfNotKey x)
    else .unmatched c
  | _ =>
    match (kkOf y n).toNat with
    | 0x07 => .instr (.readDelay x)
    | 0x0A => .instr (.waitKey x)
    | 0x15 => .instr (.writeDelay x)
    | 0x18 => .instr (.writeSound x)
    | 0x1E => .instr (.addIndex x)
    | 0x29 => .instr (.fontAddress x)
    | 0x33 => .instr (.bcd x)
    | 0x55 => .instr (.dump x)
    | 0x65 => .instr (.load x)
    | _ => .unmatched c

/-- Decode of a 16-bit word (R73, R74). -/
def decode (w : Word) : Decoded := decodeNibbles (fieldC w) (fieldX w) (fieldY w) (fieldN w)

/-- The word made of the byte at `pc` and the byte after it: big-endian (R54, R72). -/
def wordOfBytes (hi lo : Byte) : Word := hi ++ lo

/-- The byte stored at the lower address: bits 15 to 8 (R54). -/
def highByte (w : Word) : Byte := w.extractLsb' 8 8

/-- The byte stored at the higher address: bits 7 to 0 (R54). -/
def lowByte (w : Word) : Byte := w.extractLsb' 0 8

/-- Decode of a list of bytes: the first instruction and the rest; `none` where fewer than two bytes stand (R70). -/
def decodeBytes : List Byte → Option (Decoded × List Byte)
  | hi :: lo :: rest => some (decode (wordOfBytes hi lo), rest)
  | _ => none

/-- The encoder: the word of an instruction, from the patterns of R73. The ignored `y` of 8xy6 and 8xyE is kept (R79). -/
def encode : Instr → Word
  | .clearDisplay => wordOf 0x0 0x0 0xE 0x0
  | .ret => wordOf 0x0 0x0 0xE 0xE
  | .jump nnn => wordNNN 0x1 nnn
  | .call nnn => wordNNN 0x2 nnn
  | .skipEqImm x kk => wordXKK 0x3 x kk
  | .skipNeImm x kk => wordXKK 0x4 x kk
  | .skipEqReg x y => wordOf 0x5 x y 0x0
  | .loadImm x kk => wordXKK 0x6 x kk
  | .addImm x kk => wordXKK 0x7 x kk
  | .move x y => wordOf 0x8 x y 0x0
  | .orReg x y => wordOf 0x8 x y 0x1
  | .andReg x y => wordOf 0x8 x y 0x2
  | .xorReg x y => wordOf 0x8 x y 0x3
  | .addCarry x y => wordOf 0x8 x y 0x4
  | .sub x y => wordOf 0x8 x y 0x5
  | .shiftRight x y => wordOf 0x8 x y 0x6
  | .subReversed x y => wordOf 0x8 x y 0x7
  | .shiftLeft x y => wordOf 0x8 x y 0xE
  | .skipNeReg x y => wordOf 0x9 x y 0x0
  | .loadIndex nnn => wordNNN 0xA nnn
  | .jumpV0 nnn => wordNNN 0xB nnn
  | .random x kk => wordXKK 0xC x kk
  | .draw x y n => wordOf 0xD x y n
  | .skipIfKey x => wordOf 0xE x 0x9 0xE
  | .skipIfNotKey x => wordOf 0xE x 0xA 0x1
  | .readDelay x => wordOf 0xF x 0x0 0x7
  | .waitKey x => wordOf 0xF x 0x0 0xA
  | .writeDelay x => wordOf 0xF x 0x1 0x5
  | .writeSound x => wordOf 0xF x 0x1 0x8
  | .addIndex x => wordOf 0xF x 0x1 0xE
  | .fontAddress x => wordOf 0xF x 0x2 0x9
  | .bcd x => wordOf 0xF x 0x3 0x3
  | .dump x => wordOf 0xF x 0x5 0x5
  | .load x => wordOf 0xF x 0x6 0x5

/-- The bytes of an instruction as memory holds them, lowest address first (R54). -/
def encodeBytes (i : Instr) : List Byte := [highByte (encode i), lowByte (encode i)]

/-- The `mask` column of R73's table. -/
def Mnemonic.mask : Mnemonic → Word
  | .clearDisplay | .ret => 0xFFFF
  | .jump | .call | .skipEqImm | .skipNeImm | .loadImm | .addImm
  | .loadIndex | .jumpV0 | .random | .draw => 0xF000
  | .skipEqReg | .move | .orReg | .andReg | .xorReg | .addCarry | .sub | .shiftRight
  | .subReversed | .shiftLeft | .skipNeReg => 0xF00F
  | .skipIfKey | .skipIfNotKey | .readDelay | .waitKey | .writeDelay | .writeSound
  | .addIndex | .fontAddress | .bcd | .dump | .load => 0xF0FF

/-- The `match` column of R73's table. -/
def Mnemonic.pattern : Mnemonic → Word
  | .clearDisplay => 0x00E0
  | .ret => 0x00EE
  | .jump => 0x1000
  | .call => 0x2000
  | .skipEqImm => 0x3000
  | .skipNeImm => 0x4000
  | .skipEqReg => 0x5000
  | .loadImm => 0x6000
  | .addImm => 0x7000
  | .move => 0x8000
  | .orReg => 0x8001
  | .andReg => 0x8002
  | .xorReg => 0x8003
  | .addCarry => 0x8004
  | .sub => 0x8005
  | .shiftRight => 0x8006
  | .subReversed => 0x8007
  | .shiftLeft => 0x800E
  | .skipNeReg => 0x9000
  | .loadIndex => 0xA000
  | .jumpV0 => 0xB000
  | .random => 0xC000
  | .draw => 0xD000
  | .skipIfKey => 0xE09E
  | .skipIfNotKey => 0xE0A1
  | .readDelay => 0xF007
  | .waitKey => 0xF00A
  | .writeDelay => 0xF015
  | .writeSound => 0xF018
  | .addIndex => 0xF01E
  | .fontAddress => 0xF029
  | .bcd => 0xF033
  | .dump => 0xF055
  | .load => 0xF065

/-- The mnemonic R78 writes, without its operands. -/
def Mnemonic.text : Mnemonic → String
  | .clearDisplay => "clear-display"
  | .ret => "return"
  | .jump => "jump"
  | .call => "call"
  | .skipEqImm => "skip-eq-imm"
  | .skipNeImm => "skip-ne-imm"
  | .skipEqReg => "skip-eq-reg"
  | .loadImm => "load-imm"
  | .addImm => "add-imm"
  | .move => "move"
  | .orReg => "or"
  | .andReg => "and"
  | .xorReg => "xor"
  | .addCarry => "add-carry"
  | .sub => "sub"
  | .shiftRight => "shift-right"
  | .subReversed => "sub-reversed"
  | .shiftLeft => "shift-left"
  | .skipNeReg => "skip-ne-reg"
  | .loadIndex => "load-index"
  | .jumpV0 => "jump-v0"
  | .random => "random"
  | .draw => "draw"
  | .skipIfKey => "skip-if-key"
  | .skipIfNotKey => "skip-if-not-key"
  | .readDelay => "read-delay"
  | .waitKey => "wait-key"
  | .writeDelay => "write-delay"
  | .writeSound => "write-sound"
  | .addIndex => "add-index"
  | .fontAddress => "font-address"
  | .bcd => "bcd"
  | .dump => "dump"
  | .load => "load"

/-- The operands of a line placed in their fields, as a number below 2^16 for a well-formed line (R71, R78). -/
def operandBits : List Operand → Nat
  | [.imm a] => a
  | [.v x] => x * 0x100
  | [.v x, .imm k] => x * 0x100 + k
  | [.v x, .v y] => x * 0x100 + y * 0x10
  | [.v x, .v y, .imm n] => x * 0x100 + y * 0x10 + n
  | _ => 0

/-- The assembler: the word of a well-formed line, `none` for a line R78 refuses. -/
def AsmLine.assemble (l : AsmLine) : Option Word :=
  match l.check with
  | none => some (l.mnemonic.pattern + BitVec.ofNat 16 (operandBits l.operands))
  | some _ => none

/-- An item of a program text: an instruction line, or a raw data byte `byte 0x..` emitted verbatim (R78). -/
inductive AsmItem where
  | line (l : AsmLine)
  | data (value : Nat)
  deriving DecidableEq, Repr

/-- The bytes an item puts into the program, lowest address first (R54, R78). -/
def AsmItem.bytes : AsmItem → Option (List Byte)
  | .line l => l.assemble.map fun w => [highByte w, lowByte w]
  | .data v => if v < 256 then some [BitVec.ofNat 8 v] else none

/-- The instruction of a table word `w` of `nbits` bits, its upper bits zero, laid out big-endian and decoded. -/
def tableWord (nbits w : Nat) : Word := BitVec.ofNat 16 (w % 2 ^ nbits)

/-- The host's entry to the decoder: the instruction whose table bits are `w`, `none` for an unmatched word. -/
def decodeTableWord (nbits w : Nat) : Option Instr :=
  match decodeBytes [highByte (tableWord nbits w), lowByte (tableWord nbits w)] with
  | some (.instr i, _) => some i
  | _ => none

end Sys2Proof
end

