-- ==== Sys2Proof/Machine/Flags.lean ====
section
/-! DEFINITION. Every flag the core computes (42_alu.md R137 to R141, 40_display.md R102), as a function of the
latched operands. Values are unsigned integers (R130). -/

namespace Sys2Proof.Machine

/-- A flag as the register holds it: 0 or 1 (R130, D15). -/
def flagByte (b : Bool) : Byte := if b then 1 else 0

/-- 8xy4: the carry out of bit 7, `X + Y > 255` (R137). -/
def addCarryFlag (X Y : Byte) : Bool := decide (255 < X.toNat + Y.toNat)

/-- 8xy5: `X > Y` strictly (R138). -/
def subFlag (X Y : Byte) : Bool := decide (Y.toNat < X.toNat)

/-- 8xy7: `X < Y` strictly (R140). -/
def subReversedFlag (X Y : Byte) : Bool := decide (X.toNat < Y.toNat)

/-- 8xy6: bit 0 before the shift (R139). -/
def shiftRightFlag (X : Byte) : Bool := X.getLsbD 0

/-- 8xyE: bit 7 before the shift (R141). -/
def shiftLeftFlag (X : Byte) : Bool := X.getLsbD 7

/-- The compositor of one pixel: the new pixel and the collision contribution (R102). -/
def compose (d cur : Bool) : Bool × Bool := (Bool.xor d cur, d && cur)

end Sys2Proof.Machine
end

