-- ==== Sys2Proof/Config.lean ====
section
/-! DEFINITION. What is fixed for one machine: the spec's fixed parameters, the types of its OPEN parameters,
and the free values of the environment (00_scope.md R7, 10_state.md R32). -/

namespace Sys2Proof.Config

/-- MEM_SIZE: addresses 0x000 to 0xFFF (R7, R30). -/
def memSize : Nat := 4096

/-- RESET_PC, which is PROGRAM_START (R7, R231; D7). -/
def resetPc : Addr := 0x200#16

/-- SMALL_FONT_BASE (R7, R57). -/
def smallFontBase : Nat := 0x000

/-- LARGE_FONT_BASE (R7, R57). -/
def largeFontBase : Nat := 0x050

/-- PROGRAM_START: where the ROM loader places the first program byte (R7, R57, R236). -/
def programStart : Nat := 0x200

/-- SPRITE_W: pixels in one sprite row (R7). -/
def spriteW : Nat := 8

/-- FLAG_REG: VF (R7, R21; D1). -/
def flagReg : Reg := 15#4

/-- The OPEN parameters a machine carries while it runs (R7).
Statements range over all of them; only `State.reset` names one value of each (DESIGN CHOICE, log 4 and 5). -/
structure Params where
  /-- STACK_BASE: the stack pointer after a reset (R25, R230; D6). -/
  stackBase : Addr
  /-- STACK_LIMIT: the upper bound of the stack region, which the core never reads (R25; D6). -/
  stackLimit : Addr
  /-- DISPLAY_W: columns of the grid, at least 1 (R31; D17). -/
  displayW : Nat
  /-- DISPLAY_H: rows of the grid, at least 1 (R31; D17). -/
  displayH : Nat
  deriving DecidableEq, Repr

/-- R7: `DISPLAY_W` and `DISPLAY_H` are each an integer at least 1. -/
abbrev Params.Legal (p : Params) : Prop := 1 ≤ p.displayW ∧ 1 ≤ p.displayH

/-- FREE VALUE (log 1): the key sample of the n-th free cycle, `none` or a key 0 to 15 (R32, R170; D21). -/
opaque freeKey : Nat → Option Nibble

/-- FREE VALUE (log 1): the random byte of the n-th free cycle (R32, R142; D22). -/
opaque freeRnd : Nat → Byte

/-- FREE VALUE (log 1): the timer-service bit of the n-th free cycle (R32, R206; D10). -/
opaque freeTick : Nat → Bool

end Sys2Proof.Config
end

