-- ==== Sys2Proof/Machine/Defaults.lean ====
section
/-! DEFINITION. The one value of each OPEN parameter that `State.reset` names (00_scope.md R7). Nothing else of the
model uses them: `State.launch` and every statement take the parameters as they come. -/

namespace Sys2Proof.Machine

/-- DESIGN CHOICE (log 4 and 5, unsafe): the values the spec's own test vectors choose (95_test_vectors.md,
conventions): a 64 x 32 grid, the stack from 0x0F0; the bound is the program start. -/
def Defaults.params : Config.Params :=
  { stackBase := 0x0F0#16, stackLimit := 0x200#16, displayW := 64, displayH := 32 }

/-- PRESUMED (log 6, unsafe): the usual small font, digits 0 to F, five bytes each
(93_implementation_defined.md B.3, which is not from the source). -/
def Defaults.smallFont : List Byte :=
  [0xF0, 0x90, 0x90, 0x90, 0xF0, 0x20, 0x60, 0x20, 0x20, 0x70,
   0xF0, 0x10, 0xF0, 0x80, 0xF0, 0xF0, 0x10, 0xF0, 0x10, 0xF0,
   0x90, 0x90, 0xF0, 0x10, 0x10, 0xF0, 0x80, 0xF0, 0x10, 0xF0,
   0xF0, 0x80, 0xF0, 0x90, 0xF0, 0xF0, 0x10, 0x20, 0x40, 0x40] ++
  [0xF0, 0x90, 0xF0, 0x90, 0xF0, 0xF0, 0x90, 0xF0, 0x10, 0xF0,
   0xF0, 0x90, 0xF0, 0x90, 0x90, 0xE0, 0x90, 0xE0, 0x90, 0xE0,
   0xF0, 0x80, 0x80, 0x80, 0xF0, 0xE0, 0x90, 0x90, 0x90, 0xE0,
   0xF0, 0x80, 0xF0, 0x80, 0xF0, 0xF0, 0x80, 0xF0, 0x80, 0x80]

/-- DESIGN CHOICE (log 6, unsafe): no default large font exists in the spec; all 160 bytes are 0. -/
def Defaults.largeFont : List Byte := List.replicate 160 0

end Sys2Proof.Machine
end

