-- ==== Sys2Proof/Machine/State.lean ====
section
/-! DEFINITION. The state of the machine as plain data (10_state.md), the reasons a step may stop, and the state
right after reset (70_reset_and_hazards.md R230, R236). -/

namespace Sys2Proof.Machine

/-- The execution mode (R29). -/
inductive Mode where
  /-- Each cycle fetches and executes one instruction (R75). -/
  | run
  /-- Each cycle polls the key input for `V[x]` and fetches nothing (R175). -/
  | waitKey (x : Reg)
  deriving DecidableEq, Repr

/-- The inputs of one cycle, sampled once each (R32, R75). -/
structure CycleInput where
  /-- The key sample, `none` or a key 0 to 15 (R170). -/
  key : Option Nibble
  /-- The random byte (R142). -/
  rnd : Byte
  /-- Whether the timer phase of this cycle services the timers (R206). -/
  tick : Bool
  deriving DecidableEq, Repr

/-- What the environment may ask of the core between cycles (R32, R207, R230). -/
inductive Request where
  /-- One cycle with these inputs. -/
  | cycle (inp : CycleInput)
  /-- One timer service alone (R207). -/
  | service (tick : Bool)
  /-- A reset; `together` is a cycle asked for together with it, which is not run (R202, R234). -/
  | reset (together : Option CycleInput)
  deriving DecidableEq, Repr

/-- An output event (R33). -/
inductive OutEvent where
  /-- `FbPresent()`, from 00E0 and Dxyn. -/
  | present
  /-- `ToneSet(b)`, from each timer service. -/
  | toneSet (b : Bool)
  deriving DecidableEq, Repr

/-- The bytes of the AddressSpace that differ from what an unlisted address reads as, by rising address (R30). -/
abbrev Memory := List Host.Cell

/-- The rows of the Display's grid, row 0 first, each its pixels from column 0 (R31). -/
abbrev Grid := List (List Bool)

/-- The state of the core, of the collaborators it reads and writes, and of the environment's free choices. -/
structure State where
  /-- `V[0]` to `V[15]`; VF is `V[15]` (R20, R21). -/
  V : Vector Byte 16
  /-- The index register (R23). -/
  I : Addr
  /-- The program counter (R24). -/
  pc : Addr
  /-- The call-stack pointer, the next free stack byte (R25). -/
  sp : Addr
  /-- The delay timer (R26). -/
  DT : Byte
  /-- The sound timer (R27). -/
  ST : Byte
  /-- The tone gate (R28). -/
  tone : Bool
  /-- The execution mode (R29). -/
  mode : Mode
  /-- The AddressSpace's bytes (R30). -/
  mem : Memory
  /-- The Display's grid (R31). -/
  fb : Grid
  /-- The implementation parameters of this machine, which no transition changes (R7). -/
  par : Config.Params
  /-- The inputs of the cycle in progress (R32). -/
  inp : CycleInput
  /-- MODEL'S OWN (log 3): what the environment has asked for and the core has not yet done, oldest first. -/
  requests : List Request
  /-- MODEL'S OWN (log 1): how many free cycle inputs have been drawn. -/
  draws : Nat
  /-- The output events so far, oldest first (R33, D30). -/
  trace : List OutEvent
  deriving DecidableEq, Repr

/-- Why the machine stops with a fault. NO constructor: the core raises no exception, trap or fault of any kind
(60_exceptions.md R200), so nobody raises one; that is the spec's own rule, neither safe nor unsafe. -/
inductive Fault where
  deriving DecidableEq, Repr

/-- Why a step has no meaning. -/
inductive Refusal where
  /-- Raised by an arm of `exec` whose instruction has no meaning yet; safe. No arm raises it in this model. -/
  | notModelled (mnemonic : String)
  deriving DecidableEq, Repr

/-- The machine right after reset (R230), at launch (R236) with the parameter values of `Defaults`:
the core's state as R230 gives it, memory with nothing listed (log 6 and 7), the grid off (log 8), no request
outstanding (log 3), no input drawn (log 1) and no output made. The latched inputs are overwritten before
anything reads them (log 2). -/
def State.reset : State where
  V := Vector.replicate 16 0
  I := 0
  pc := Config.resetPc
  sp := Defaults.params.stackBase
  DT := 0
  ST := 0
  tone := false
  mode := .run
  mem := []
  fb := List.replicate Defaults.params.displayH (List.replicate Defaults.params.displayW false)
  par := Defaults.params
  inp := { key := none, rnd := 0, tick := false }
  requests := []
  draws := 0
  trace := []

end Sys2Proof.Machine
end

