-- ==== Sys2Proof/Machine/Ops.lean ====
section
/-! DEFINITION. The named operations on registers, memory, the stack, the grid, the timers, the inputs and the
outputs. The core raises no exception and returns from none (60_exceptions.md R200, R203): there is no operation for
either. -/

namespace Sys2Proof.Machine

/-! ## Memory (20_memory.md) -/

/-- What an address that memory does not list reads as: at launch the small font, else 0.
PRESUMED for the font's bytes (log 6), DESIGN CHOICE for the rest (log 7); both unsafe. -/
def Memory.unlisted (a : Nat) : Byte := Defaults.smallFont.getD a 0

/-- The byte memory holds at an address of the array. -/
def Memory.lookup (m : Memory) (a : Nat) : Byte :=
  match m with
  | [] => Memory.unlisted a
  | c :: rest => if c.1 = a then c.2 else Memory.lookup rest a

/-- Put a cell before the first cell of a higher address. -/
def Memory.insert (m : Memory) (a : Nat) (v : Byte) : Memory :=
  match m with
  | [] => [(a, v)]
  | c :: rest => if a < c.1 then (a, v) :: c :: rest else c :: Memory.insert rest a v

/-- Make the byte at `a` be `v`: the old cell goes, and a new one is listed unless an unlisted `a` reads as `v`. -/
def Memory.store (m : Memory) (a : Nat) (v : Byte) : Memory :=
  let others := m.filter fun c => c.1 != a
  if v = Memory.unlisted a then others else Memory.insert others a v

/-- The canonical form: addresses strictly rising, all inside the array, no entry equal to what an unlisted address
reads as. -/
abbrev Memory.wf (m : Memory) : Prop :=
  m.Pairwise (fun c d => c.1 < d.1) ∧ ∀ c ∈ m, c.1 < Config.memSize ∧ c.2 ≠ Memory.unlisted c.1

/-- `MemRead(a, 1)`: `mem[a]`, or 0 at or above 4096 (R51). -/
def Memory.read (m : Memory) (a : Addr) : Byte :=
  if a.toNat < Config.memSize then Memory.lookup m a.toNat else 0

/-- `MemWrite(a, 1, v)`: `mem[a] <- v`, or nothing at or above 4096 (R52). -/
def Memory.write (m : Memory) (a : Addr) (v : Byte) : Memory :=
  if a.toNat < Config.memSize then Memory.store m a.toNat v else m

/-- `MemRead` on the machine (R51). -/
def State.memRead (s : State) (a : Addr) : Byte := s.mem.read a

/-- `MemWrite` on the machine (R52). -/
def State.memWrite (s : State) (a : Addr) (v : Byte) : State := { s with mem := s.mem.write a v }

/-! ## Registers (10_state.md) -/

/-- `V[x]` read (R20). -/
def State.getV (s : State) (x : Reg) : Byte := s.V[x.toNat]'(by have := x.isLt; omega)

/-- `V[x] <- v` (R20). -/
def State.setV (s : State) (x : Reg) (v : Byte) : State :=
  { s with V := s.V.set x.toNat v (by have := x.isLt; omega) }

/-- Write a flag into VF as 0 or 1 (R21). -/
def State.setFlag (s : State) (b : Bool) : State := s.setV Config.flagReg (flagByte b)

/-- `I <- a` (R23). -/
def State.setI (s : State) (a : Addr) : State := { s with I := a }

/-- `pc <- a` (R24). -/
def State.setPc (s : State) (a : Addr) : State := { s with pc := a }

/-- `sp <- a` (R25). -/
def State.setSp (s : State) (a : Addr) : State := { s with sp := a }

/-- `DT <- v` (R26). -/
def State.setDT (s : State) (v : Byte) : State := { s with DT := v }

/-- `ST <- v` (R27). -/
def State.setST (s : State) (v : Byte) : State := { s with ST := v }

/-- `mode <- m` (R29). -/
def State.setMode (s : State) (m : Mode) : State := { s with mode := m }

/-- Replace the grid (R31). -/
def State.setFb (s : State) (g : Grid) : State := { s with fb := g }

/-- Record an output event after those already made (R33). -/
def State.emit (s : State) (e : OutEvent) : State := { s with trace := s.trace ++ [e] }

/-- Sample the inputs of a cycle, once (R32, R75). -/
def State.latch (s : State) (inp : CycleInput) : State := { s with inp := inp }

/-! ## Fetch and control transfer (30_encoding.md, 41_control.md) -/

/-- The word at `pc`, big-endian (R54, R72). -/
def State.fetchWord (s : State) : Word := wordOfBytes (s.memRead s.pc) (s.memRead (s.pc + 1))

/-- The advance of the fetch: `pc <- (pc + 2) mod 2^16` (R72). -/
def State.advance (s : State) : State := s.setPc (s.pc + 2)

/-- `if b: Skip()`: `pc` goes past the next instruction (R110). -/
def State.skipIf (s : State) (b : Bool) : State := s.setPc (if b then s.pc + 2 else s.pc)

/-- `Push16(v)`: the low byte at `sp`, the high byte at `sp + 1`, then `sp + 2` (R64). -/
def State.push16 (s : State) (v : Addr) : State :=
  ((s.memWrite s.sp (lowByte v)).memWrite (s.sp + 1) (highByte v)).setSp (s.sp + 2)

/-- The value `Pop16()` returns: the two bytes below `sp`, little-endian (R65). -/
def State.popValue (s : State) : Addr :=
  wordOfBytes (s.memRead (s.sp - 2 + 1)) (s.memRead (s.sp - 2))

/-- What `Pop16()` does to the state: `sp <- (sp - 2) mod 2^16` (R65). -/
def State.pop16 (s : State) : State := s.setSp (s.sp - 2)

/-! ## Register blocks (43_index_memory.md) -/

/-- `MemWrite((B + k) mod 2^16, 1, V[k])` for `k = 0, ..., n - 1` in that order (R155). -/
def State.dumpBlock (s : State) (B : Addr) (n : Nat) : State :=
  match n with
  | 0 => s
  | k + 1 =>
    let t := State.dumpBlock s B k
    t.memWrite (B + BitVec.ofNat 16 k) (t.getV (BitVec.ofNat 4 k))

/-- `V[k] <- MemRead((B + k) mod 2^16, 1)` for `k = 0, ..., n - 1` in that order (R156). -/
def State.loadBlock (s : State) (B : Addr) (n : Nat) : State :=
  match n with
  | 0 => s
  | k + 1 =>
    let t := State.loadBlock s B k
    t.setV (BitVec.ofNat 4 k) (t.memRead (B + BitVec.ofNat 16 k))

/-! ## The grid and the compositor (10_state.md R31, 40_display.md) -/

/-- `FbGet(x, y)` (R31); the core asks only for pixels of the grid, and any other place reads as off. -/
def Grid.get (g : Grid) (x y : Nat) : Bool := (g.getD y []).getD x false

/-- `FbSet(x, y, b)` (R31); a place outside the grid is left as it is. -/
def Grid.set (g : Grid) (x y : Nat) (b : Bool) : Grid := g.modify y fun row => row.set x b

/-- `FbClear()` on a grid of `w` columns and `h` rows: every pixel off (R100). -/
def Grid.blank (w h : Nat) : Grid := List.replicate h (List.replicate w false)

/-- The grid has the machine's size (R31). -/
abbrev Grid.wf (g : Grid) (p : Config.Params) : Prop :=
  g.length = p.displayH ∧ ∀ row ∈ g, row.length = p.displayW

/-- One sprite bit and the pixel it lands on. -/
structure Pixel where
  /-- Column. -/
  x : Nat
  /-- Row. -/
  y : Nat
  /-- The sprite bit. -/
  d : Bool
  deriving DecidableEq, Repr

/-- The pixels of one sprite row `b` drawn at row `ty`, most significant bit first; the sum `X + j` is unbounded
before the modulo (R101, D16). -/
def rowPixels (w X ty : Nat) (b : Byte) : List Pixel :=
  (List.range Config.spriteW).map fun j => { x := (X + j) % w, y := ty, d := b.getLsbD (7 - j) }

/-- The pixels of a sprite of `n` rows read from address `B`, in the order R101 draws them. -/
def State.spritePixels (s : State) (X Y : Nat) (B : Addr) (n : Nat) : List Pixel :=
  (List.range n).flatMap fun row =>
    rowPixels s.par.displayW X ((Y + row) % s.par.displayH) (s.memRead (B + BitVec.ofNat 16 row))

/-- Composite one pixel: the grid with the new pixel, and the collision flag so far (R101, R102). -/
def compositePixel (acc : Grid × Bool) (p : Pixel) : Grid × Bool :=
  let r := compose p.d (acc.1.get p.x p.y)
  (acc.1.set p.x p.y r.1, acc.2 || r.2)

/-- Composite a sprite's pixels in order, from a cleared collision flag (R101). -/
def composite (g : Grid) (ps : List Pixel) : Grid × Bool := ps.foldl compositePixel (g, false)

/-! ## Timers (60_exceptions.md R205) -/

/-- `TimerPhase(tick)`: with `tick` the sound timer decides the tone and both counters count down to 0; without it
nothing changes. -/
def State.timerPhase (s : State) (tick : Bool) : State :=
  { s with
    ST := if tick && s.ST != 0 then s.ST - 1 else s.ST
    DT := if tick && s.DT != 0 then s.DT - 1 else s.DT
    tone := if tick then s.ST != 0 else s.tone
    trace := if tick then s.trace ++ [.toneSet (s.ST != 0)] else s.trace }

/-! ## Key wait (44_keys_timers.md R175) and reset (70_reset_and_hazards.md R230) -/

/-- The key poll of a cycle in mode `WaitKey(x)` (R175). -/
def State.pollKey (s : State) (x : Reg) : State :=
  match s.inp.key with
  | some k => (s.setV x (k.setWidth 8)).setMode .run
  | none => s

/-- Reset: the core's own state as R230 gives it, and nothing else. -/
def State.coreReset (s : State) : State :=
  { s with
    V := Vector.replicate 16 0
    I := 0
    pc := Config.resetPc
    sp := s.par.stackBase
    DT := 0
    ST := 0
    tone := false
    mode := .run }

/-! ## The environment (10_state.md R32) -/

/-- The inputs of a cycle the environment did not list: free values (log 1). -/
def State.freeInput (s : State) : CycleInput :=
  { key := Config.freeKey s.draws, rnd := Config.freeRnd s.draws, tick := Config.freeTick s.draws }

/-- What the environment asks for next: the oldest listed request, or a cycle with free inputs (log 1 and 3). -/
def State.nextRequest (s : State) : Request :=
  match s.requests with
  | [] => .cycle s.freeInput
  | r :: _ => r

/-- The state once that request is taken. -/
def State.takeRequest (s : State) : State :=
  match s.requests with
  | [] => { s with draws := s.draws + 1 }
  | _ :: rs => { s with requests := rs }

end Sys2Proof.Machine
end

