-- ==== Sys2Proof/Machine/Operands.lean ====
section
/-! DEFINITION. Every operand form: registers are `State.getV`; immediates are zero-extended (30_encoding.md R71);
the one data addressing mode is index plus offset (43_index_memory.md R150); the two inputs are draws. -/

namespace Sys2Proof.Machine

/-- `zext_16` of a byte: `kk` or a register value (R71). -/
def zext16 (b : Byte) : Addr := b.setWidth 16

/-- `zext_16(nnn)` (R71). -/
def zextNNN (nnn : BitVec 12) : Addr := nnn.setWidth 16

/-- The effective address of byte `k`: `(I + k) mod 2^16` (R150). -/
def State.effAddr (s : State) (k : Nat) : Addr := s.I + BitVec.ofNat 16 k

/-- `KeyIn()`: the cycle's key sample (R170). -/
def State.keyIn (s : State) : Option Nibble := s.inp.key

/-- `RandIn()`: the cycle's random byte (R142). -/
def State.randIn (s : State) : Byte := s.inp.rnd

/-- Whether the key sample is a key equal to the register value `X` (R171, R172). -/
def State.keyIs (s : State) (X : Byte) : Bool :=
  match s.keyIn with
  | some k => k.setWidth 8 == X
  | none => false

end Sys2Proof.Machine
end

