-- ==== Sys2Proof/Machine/Alu.lean ====
section
/-! DEFINITION. Register loads and the ALU (42_alu.md). Operands are latched before any write; VF is written first and
V[x] second (10_state.md R22, D2). Results are modulo 256 (R130). -/

namespace Sys2Proof.Machine

/-- 6xkk: `V[x] <- kk` (R131). -/
def execLoadImm (x : Reg) (kk : Byte) (s : State) : Host.Outcome State Fault Refusal :=
  .next (s.setV x kk)

/-- 7xkk: `V[x] <- (V[x] + kk) mod 256`, no flag (R132). -/
def execAddImm (x : Reg) (kk : Byte) (s : State) : Host.Outcome State Fault Refusal :=
  .next (s.setV x (s.getV x + kk))

/-- 8xy0: `V[x] <- V[y]` (R133). -/
def execMove (x y : Reg) (s : State) : Host.Outcome State Fault Refusal :=
  .next (s.setV x (s.getV y))

/-- 8xy1: `V[x] <- V[x] OR V[y]` (R134). -/
def execOrReg (x y : Reg) (s : State) : Host.Outcome State Fault Refusal :=
  .next (s.setV x (s.getV x ||| s.getV y))

/-- 8xy2: `V[x] <- V[x] AND V[y]` (R135). -/
def execAndReg (x y : Reg) (s : State) : Host.Outcome State Fault Refusal :=
  .next (s.setV x (s.getV x &&& s.getV y))

/-- 8xy3: `V[x] <- V[x] XOR V[y]` (R136). -/
def execXorReg (x y : Reg) (s : State) : Host.Outcome State Fault Refusal :=
  .next (s.setV x (s.getV x ^^^ s.getV y))

/-- 8xy4: VF the carry, then `V[x] <- (X + Y) mod 256` (R137). -/
def execAddCarry (x y : Reg) (s : State) : Host.Outcome State Fault Refusal :=
  .next ((s.setFlag (addCarryFlag (s.getV x) (s.getV y))).setV x (s.getV x + s.getV y))

/-- 8xy5: VF is `X > Y`, then `V[x] <- (X - Y) mod 256` (R138). -/
def execSub (x y : Reg) (s : State) : Host.Outcome State Fault Refusal :=
  .next ((s.setFlag (subFlag (s.getV x) (s.getV y))).setV x (s.getV x - s.getV y))

/-- 8xy6: VF is bit 0 of `X`, then `V[x] <- X div 2`; `y` is ignored (R139). -/
def execShiftRight (x _y : Reg) (s : State) : Host.Outcome State Fault Refusal :=
  .next ((s.setFlag (shiftRightFlag (s.getV x))).setV x (s.getV x >>> 1))

/-- 8xy7: VF is `X < Y`, then `V[x] <- (X - Y) mod 256`, the core's quirk (R140, D14, C4). -/
def execSubReversed (x y : Reg) (s : State) : Host.Outcome State Fault Refusal :=
  .next ((s.setFlag (subReversedFlag (s.getV x) (s.getV y))).setV x (s.getV x - s.getV y))

/-- 8xyE: VF is bit 7 of `X`, then `V[x] <- (X * 2) mod 256`; `y` is ignored (R141). -/
def execShiftLeft (x _y : Reg) (s : State) : Host.Outcome State Fault Refusal :=
  .next ((s.setFlag (shiftLeftFlag (s.getV x))).setV x (s.getV x <<< 1))

/-- Cxkk: `V[x] <- RandIn() AND kk` (R142). -/
def execRandom (x : Reg) (kk : Byte) (s : State) : Host.Outcome State Fault Refusal :=
  .next (s.setV x (s.randIn &&& kk))

end Sys2Proof.Machine
end

