-- ==== Sys2Proof/Machine/Control.lean ====
section
/-! DEFINITION. Control transfer (41_control.md). On entry `pc` is the instruction's address plus 2. -/

namespace Sys2Proof.Machine

/-- 00EE: `pc <- Pop16()` (R111). -/
def execRet (s : State) : Host.Outcome State Fault Refusal :=
  .next (s.pop16.setPc s.popValue)

/-- 1nnn: `pc <- zext_16(nnn)` (R112). -/
def execJump (nnn : BitVec 12) (s : State) : Host.Outcome State Fault Refusal :=
  .next (s.setPc (zextNNN nnn))

/-- 2nnn: `Push16(pc)`, then `pc <- zext_16(nnn)` (R113). -/
def execCall (nnn : BitVec 12) (s : State) : Host.Outcome State Fault Refusal :=
  .next ((s.push16 s.pc).setPc (zextNNN nnn))

/-- 3xkk: skip when `V[x] = kk` (R114). -/
def execSkipEqImm (x : Reg) (kk : Byte) (s : State) : Host.Outcome State Fault Refusal :=
  .next (s.skipIf (s.getV x == kk))

/-- 4xkk: skip when `V[x] ≠ kk` (R115). -/
def execSkipNeImm (x : Reg) (kk : Byte) (s : State) : Host.Outcome State Fault Refusal :=
  .next (s.skipIf (s.getV x != kk))

/-- 5xy0: skip when `V[x] = V[y]` (R116). -/
def execSkipEqReg (x y : Reg) (s : State) : Host.Outcome State Fault Refusal :=
  .next (s.skipIf (s.getV x == s.getV y))

/-- 9xy0: skip when `V[x] ≠ V[y]` (R117). -/
def execSkipNeReg (x y : Reg) (s : State) : Host.Outcome State Fault Refusal :=
  .next (s.skipIf (s.getV x != s.getV y))

/-- Bnnn: `pc <- (nnn + V[0]) mod 4096` (R118). -/
def execJumpV0 (nnn : BitVec 12) (s : State) : Host.Outcome State Fault Refusal :=
  .next (s.setPc (BitVec.ofNat 16 ((nnn.toNat + (s.getV 0).toNat) % Config.memSize)))

end Sys2Proof.Machine
end

