-- ==== Sys2Proof/Machine/Display.lean ====
section
/-! DEFINITION. Display instructions (40_display.md). On entry `pc` is the instruction's address plus 2. -/

namespace Sys2Proof.Machine

/-- 00E0: every pixel off, one present event (R100). -/
def execClearDisplay (s : State) : Host.Outcome State Fault Refusal :=
  .next ((s.setFb (Grid.blank s.par.displayW s.par.displayH)).emit .present)

/-- Dxyn: composite `n` sprite rows from `I` at (V[x], V[y]), VF the collision flag, one present event (R101).
The coordinates and `I` are latched before VF is written (R22, D2). -/
def execDraw (x y : Reg) (n : Nibble) (s : State) : Host.Outcome State Fault Refusal :=
  let r := composite s.fb (s.spritePixels (s.getV x).toNat (s.getV y).toNat (s.effAddr 0) n.toNat)
  .next (((s.setFlag r.2).setFb r.1).emit .present)

end Sys2Proof.Machine
end

