-- ==== Sys2Proof/Machine/IndexMemory.lean ====
section
/-! DEFINITION. The index register and memory instructions (43_index_memory.md). None changes `I` as a side effect
(R150, D23). -/

namespace Sys2Proof.Machine

/-- Annn: `I <- zext_16(nnn)` (R151). -/
def execLoadIndex (nnn : BitVec 12) (s : State) : Host.Outcome State Fault Refusal :=
  .next (s.setI (zextNNN nnn))

/-- Fx1E: `I <- (I + zext_16(V[x])) mod 2^16`, no flag (R152). -/
def execAddIndex (x : Reg) (s : State) : Host.Outcome State Fault Refusal :=
  .next (s.setI (s.I + zext16 (s.getV x)))

/-- Fx29: `I <- zext_16(V[x]) * 5`, the whole byte, not its low nibble (R153). -/
def execFontAddress (x : Reg) (s : State) : Host.Outcome State Fault Refusal :=
  .next (s.setI (zext16 (s.getV x) * 5))

/-- Fx33: the hundreds, tens and units digits of `V[x]` to `I`, `I + 1`, `I + 2` (R154). -/
def execBcd (x : Reg) (s : State) : Host.Outcome State Fault Refusal :=
  let X := (s.getV x).toNat
  .next (((s.memWrite (s.effAddr 0) (BitVec.ofNat 8 (X / 100))).memWrite
    (s.effAddr 1) (BitVec.ofNat 8 (X / 10 % 10))).memWrite
    (s.effAddr 2) (BitVec.ofNat 8 (X % 10)))

/-- Fx55: `V[0]` to `V[x]` inclusive to `I`, `I + 1`, ... (R155). -/
def execDump (x : Reg) (s : State) : Host.Outcome State Fault Refusal :=
  .next (s.dumpBlock (s.effAddr 0) (x.toNat + 1))

/-- Fx65: `V[0]` to `V[x]` inclusive from `I`, `I + 1`, ... (R156). -/
def execLoad (x : Reg) (s : State) : Host.Outcome State Fault Refusal :=
  .next (s.loadBlock (s.effAddr 0) (x.toNat + 1))

end Sys2Proof.Machine
end

