-- ==== Sys2Proof/Machine/KeysTimers.lean ====
section
/-! DEFINITION. Key input, the key wait and timer access (44_keys_timers.md). -/

namespace Sys2Proof.Machine

/-- Ex9E: skip when the key sample is a key equal to `V[x]` (R171). -/
def execSkipIfKey (x : Reg) (s : State) : Host.Outcome State Fault Refusal :=
  .next (s.skipIf (s.keyIs (s.getV x)))

/-- ExA1: skip unless the key sample is a key equal to `V[x]` (R172). -/
def execSkipIfNotKey (x : Reg) (s : State) : Host.Outcome State Fault Refusal :=
  .next (s.skipIf (!s.keyIs (s.getV x)))

/-- Fx07: `V[x] <- DT` (R173). -/
def execReadDelay (x : Reg) (s : State) : Host.Outcome State Fault Refusal :=
  .next (s.setV x s.DT)

/-- Fx0A: a key held now goes to `V[x]`; with none the mode becomes `WaitKey(x)` (R174). -/
def execWaitKey (x : Reg) (s : State) : Host.Outcome State Fault Refusal :=
  .next (match s.keyIn with
    | some k => s.setV x (k.setWidth 8)
    | none => s.setMode (.waitKey x))

/-- Fx15: `DT <- V[x]` (R176). -/
def execWriteDelay (x : Reg) (s : State) : Host.Outcome State Fault Refusal :=
  .next (s.setDT (s.getV x))

/-- Fx18: `ST <- V[x]`; the tone gate is not driven (R177). -/
def execWriteSound (x : Reg) (s : State) : Host.Outcome State Fault Refusal :=
  .next (s.setST (s.getV x))

end Sys2Proof.Machine
end

