-- ==== Sys2Proof/Machine/Cycle.lean ====
section
/-! DEFINITION. The three transitions of the machine: a cycle (30_encoding.md R75, 44_keys_timers.md R175), a timer
service alone (60_exceptions.md R207) and a reset (70_reset_and_hazards.md R230). -/

namespace Sys2Proof.Machine

/-- Execute a fetched word: its instruction, or the no-op of an unmatched word (R74). -/
def execWord (w : Word) (s : State) : Host.Outcome State Fault Refusal :=
  match decode w with
  | .instr i => exec i s
  | .unmatched _ => .next s

/-- The timer phase after an execute step that answered a next state. -/
def thenTimerPhase (o : Host.Outcome State Fault Refusal) (tick : Bool) : Host.Outcome State Fault Refusal :=
  match o with
  | .next t => .next (t.timerPhase tick)
  | .fault f => .fault f
  | .refused r => .refused r

/-- A cycle in mode `Run`: fetch, advance, decode, execute, timer phase (R75). -/
def runCycle (s : State) : Host.Outcome State Fault Refusal :=
  thenTimerPhase (execWord s.fetchWord s.advance) s.inp.tick

/-- A cycle in mode `WaitKey(x)`: key poll, timer phase; nothing is fetched (R175). -/
def waitCycle (x : Reg) (s : State) : Host.Outcome State Fault Refusal :=
  .next ((s.pollKey x).timerPhase s.inp.tick)

/-- One cycle on sampled inputs, by the mode (R29). -/
def cycle (s : State) : Host.Outcome State Fault Refusal :=
  match s.mode with
  | .run => runCycle s
  | .waitKey x => waitCycle x s

/-- Do what the environment asks for next (R202). -/
def transition (s : State) : Host.Outcome State Fault Refusal :=
  match s.nextRequest with
  | .cycle inp => cycle (s.takeRequest.latch inp)
  | .service tick => .next (s.takeRequest.timerPhase tick)
  | .reset _ => .next s.takeRequest.coreReset

end Sys2Proof.Machine
end

