-- ==== Sys2Proof/Machine/Launch.lean ====
section
/-! DEFINITION. Boot (70_reset_and_hazards.md R235, R236): the fonts are in memory at construction, the ROM loader
places the program, the core is reset. All of it from OPEN parameters. -/

namespace Sys2Proof.Machine

/-- What stands around the core at launch: the OPEN contents of R7 and the program. -/
structure LaunchImage where
  /-- SMALL_FONT, 80 bytes. -/
  smallFont : List Byte
  /-- LARGE_FONT, 160 bytes. -/
  largeFont : List Byte
  /-- The ROM's bytes. -/
  program : List Byte
  /-- MEM_INIT outside the fonts and the program. -/
  filler : Memory
  /-- FB_INIT. -/
  fb : Grid
  /-- What the environment will ask for, oldest first. -/
  requests : List Request
  deriving DecidableEq, Repr

/-- The lengths R7 gives the fonts, and the grid's size (R31). -/
abbrev LaunchImage.Legal (img : LaunchImage) (p : Config.Params) : Prop :=
  img.smallFont.length = 80 ∧ img.largeFont.length = 160 ∧ img.fb.wf p ∧ img.filler.wf

/-- Bytes placed at consecutive addresses of the array, from `a` upward. -/
def Memory.place (m : Memory) (a : Nat) (bs : List Byte) : Memory :=
  match bs with
  | [] => m
  | b :: rest => Memory.place (Memory.store m a b) (a + 1) rest

/-- The AddressSpace at construction: the two fonts over whatever else it holds (R235 step 1, R57). -/
def LaunchImage.constructed (img : LaunchImage) : Memory :=
  Memory.place (Memory.place img.filler Config.smallFontBase img.smallFont) Config.largeFontBase img.largeFont

/-- The ROM loader: the program from 0x200 upward; a program that does not fit is a load failure, and the core is
not started (R235 step 2; 93 A27). -/
def LaunchImage.loaded (img : LaunchImage) : Option Memory :=
  if img.program.length ≤ Config.memSize - Config.programStart then
    some (Memory.place img.constructed Config.programStart img.program)
  else none

/-- The launch state: memory loaded, the core reset (R235, R236); `none` after a load failure. -/
def State.launch (p : Config.Params) (img : LaunchImage) : Option State :=
  img.loaded.map fun m =>
    State.coreReset { State.reset with mem := m, fb := img.fb, par := p, requests := img.requests }

/-- The launch image `State.reset` stands for: the default fonts, no program, a grid that is off (log 6 to 8). -/
def Defaults.image : LaunchImage where
  smallFont := Defaults.smallFont
  largeFont := Defaults.largeFont
  program := []
  filler := []
  fb := Grid.blank Defaults.params.displayW Defaults.params.displayH
  requests := []

end Sys2Proof.Machine
end

