-- ==== Sys2Proof/Machine/Step.lean ====
section
/-! DEFINITION. The step of the machine, and the host's way of placing one instruction where the next step fetches it. -/

namespace Sys2Proof.Machine

/-- One transition (R75, R175, R207, R230). -/
def step (s : State) : Host.Outcome State Fault Refusal := transition s

/-- A cycle, and not a timer service or a reset. -/
def Request.isCycle : Request → Bool
  | .cycle _ => true
  | _ => false

/-- Where the next step can fetch a whole word that memory holds: `pc`, or the entry address where `pc` has no two
bytes of memory under it. -/
def State.placeAt (s : State) : Addr :=
  if s.pc.toNat + 1 < Config.memSize then s.pc else Config.resetPc

/-- The state with the table word `w` where the next step fetches it: its two bytes at `pc` (big-endian), the mode
`Run`, and the requests that come before the next cycle left out. -/
def State.withFetchWord (s : State) (nbits w : Nat) : State :=
  { s with
    mode := .run
    pc := s.placeAt
    requests := s.requests.dropWhile fun r => !r.isCycle
    mem := (s.mem.write s.placeAt (highByte (tableWord nbits w))).write (s.placeAt + 1)
      (lowByte (tableWord nbits w)) }

end Sys2Proof.Machine
end

