-- ==== Sys2Proof/Safety.lean ====
section
/-! DEFINITION. What claims count as safe: the machine's invariant, a step that does not stop, a stack inside its
region, and the end of a run. -/

namespace Sys2Proof.Machine

/-- A step that answers a next state. The core never stops and never fails (60_exceptions.md R200, R240). -/
abbrev Continues (s : State) : Prop := ∃ t, step s = .next t

/-- The invariant of the machine: memory in its canonical form and the grid of the machine's size, which is at least
one by one (R7, R30, R31). -/
abbrev Inv (s : State) : Prop := s.mem.wf ∧ s.fb.wf s.par ∧ s.par.Legal

/-- The stack pointer is inside the stack region: true of a correct program, and not enforced by the core (R25). -/
abbrev StackInRegion (s : State) : Prop :=
  s.par.stackBase.toNat ≤ s.sp.toNat ∧ s.sp.toNat ≤ s.par.stackLimit.toNat

/-- The word at `pc` is a jump to `pc`: the end of a run, as a claim may define it (R112, R240; D33). -/
abbrev AtSelfJump (s : State) : Prop :=
  s.mode = .run ∧ ∃ nnn, decode s.fetchWord = .instr (.jump nnn) ∧ zextNNN nnn = s.pc

/-- The sprite bits of `ps` that land on pixel `(x, y)`, combined by exclusive or. -/
def flips (ps : List Pixel) (x y : Nat) : Bool :=
  match ps with
  | [] => false
  | p :: rest => Bool.xor (decide (p.x = x ∧ p.y = y) && p.d) (flips rest x y)

/-- A word selects a row exactly when its fixed bits match (R73): `f` reads the row's fields from the word. -/
abbrev SelectedBy (mask pattern : Word) (f : Word → Instr) : Prop :=
  ∀ w, decode w = .instr (f w) ↔ w &&& mask = pattern

/-- Every word whose fixed bits match a row is that row's instruction (R73): `f` reads the row's fields from the word. -/
abbrev EncodedBy (mask pattern : Word) (f : Word → Instr) : Prop :=
  ∀ w, w &&& mask = pattern → decode w = .instr (f w)

/-- The rows whose instructions write VF implicitly (R21). -/
def implicitFlagWriters : List Mnemonic := [.addCarry, .sub, .shiftRight, .subReversed, .shiftLeft, .draw]

/-- Whether an instruction names register `z` as one it writes a result into (the `x` of its row; `V0` to `Vx` for
Fx65). -/
def writesResult (i : Instr) (z : Reg) : Bool :=
  match i with
  | .loadImm x _ | .addImm x _ | .move x _ | .orReg x _ | .andReg x _ | .xorReg x _ | .addCarry x _
  | .sub x _ | .shiftRight x _ | .subReversed x _ | .shiftLeft x _ | .random x _ | .readDelay x
  | .waitKey x => z == x
  | .load x => decide (z.toNat ≤ x.toNat)
  | .clearDisplay | .ret | .jump _ | .call _ | .skipEqImm _ _ | .skipNeImm _ _ | .skipEqReg _ _
  | .skipNeReg _ _ | .loadIndex _ | .jumpV0 _ | .draw _ _ _ | .skipIfKey _ | .skipIfNotKey _
  | .writeDelay _ | .writeSound _ | .addIndex _ | .fontAddress _ | .bcd _ | .dump _ => false

/-- `n` timer services one after the other, each with `tick = 1` (R207, R208). -/
def State.services (s : State) (n : Nat) : State :=
  match n with
  | 0 => s
  | k + 1 => (State.services s k).timerPhase true

/-- The call stack holds the return addresses `as`, the latest first, each little-endian in memory below `sp`
(R55, R64): the list the stack in memory stands for. -/
def HoldsCalls (s : State) (base : Nat) (as : List Addr) : Prop :=
  s.sp.toNat = base + 2 * as.length ∧ s.sp.toNat ≤ Config.memSize ∧
    ∀ k (h : k < as.length),
      s.memRead (BitVec.ofNat 16 (base + 2 * (as.length - 1 - k))) = lowByte as[k] ∧
      s.memRead (BitVec.ofNat 16 (base + 2 * (as.length - 1 - k) + 1)) = highByte as[k]

end Sys2Proof.Machine
end

