-- ==== Sys2Proof/Certificates/Slice0/Obligations.lean ====
section
/-! DEFINITION. The statements for the provers. Each says what the core does in every state and on every operand
unless it names a premise. "log <n>" is notes/assumptions/<n>.md; D<n> is a decision of 92_eei_decisions.md, which is
the spec's own choice and no rule of the source. -/

open Sys2Proof Sys2Proof.Machine

/-! ## Encoding (30_encoding.md) -/

/-- Decoding the word of an instruction gives the instruction back, with every operand at every value (R71, R73).
Rests on exact matching, D13. -/
def Obligations.EncodeThenDecodeIsIdentity : Prop :=
  ∀ i : Instr, decode (encode i) = .instr i

/-- No two words decode to one instruction: no bit of a word that decodes is dropped, the ignored `y` of 8xy6 and 8xyE
included (R71, R79). Rests on exact matching, D13. -/
def Obligations.DecodeThenEncodeIsIdentity : Prop :=
  ∀ (w : Word) (i : Instr), decode w = .instr i → encode i = w

/-- The decoder is the table of R73: a word decodes to an instruction of a row exactly when `(w AND mask) = match`.
Rests on exact matching, D13. -/
def Obligations.DecodeFollowsOpcodeTable : Prop :=
  ∀ (w : Word) (m : Mnemonic),
    (∃ i : Instr, decode w = .instr i ∧ i.mnemonic = m) ↔ w &&& m.mask = m.pattern

/-- The 34 patterns are pairwise disjoint (R73, the spec's own inference from the table). -/
def Obligations.NoWordMatchesTwoRows : Prop :=
  ∀ (w : Word) (m m' : Mnemonic), w &&& m.mask = m.pattern → w &&& m'.mask = m'.pattern → m = m'

/-- A word is unmatched exactly when no row matches it, and then its selector is one of the six groups that have
no-op words (R74, R76). Rests on exact matching, D13. -/
def Obligations.UnmatchedWordsMatchNoRow : Prop :=
  ∀ w : Word,
    (decode w = .unmatched (fieldC w) ↔ ∀ m : Mnemonic, w &&& m.mask ≠ m.pattern) ∧
    (∀ c, decode w = .unmatched c →
      c = fieldC w ∧ c ∈ ([0x0, 0x5, 0x8, 0x9, 0xE, 0xF] : List Nibble))

/-- Words of the spec's own examples and vectors decode to the instructions they stand for (R73; 95_test_vectors.md).
That 0x5121, 0x01E0 and 0xE19F are unmatched rests on exact matching, D13 (log 9). -/
def Obligations.SampleWordsDecode : Prop :=
  decode 0x00E0 = .instr .clearDisplay ∧ decode 0x00EE = .instr .ret ∧
  decode 0x1ABC = .instr (.jump 0xABC) ∧ decode 0x2300 = .instr (.call 0x300) ∧
  decode 0x3310 = .instr (.skipEqImm 3 0x10) ∧ decode 0x5120 = .instr (.skipEqReg 1 2) ∧
  decode 0x8127 = .instr (.subReversed 1 2) ∧ decode 0x810E = .instr (.shiftLeft 1 0) ∧
  decode 0xD012 = .instr (.draw 0 1 2) ∧ decode 0xE19E = .instr (.skipIfKey 1) ∧
  decode 0xF50A = .instr (.waitKey 5) ∧ decode 0xF533 = .instr (.bcd 5) ∧
  decode 0x5121 = .unmatched 5 ∧ decode 0x01E0 = .unmatched 0 ∧ decode 0xE19F = .unmatched 0xE

/-- The assembler accepts exactly the lines R78 writes for instructions, refuses every other line (an address above
0xFFF, a register above 15, a wrong operand), and gives an instruction's line the instruction's word. The mnemonics are
D29's. -/
def Obligations.AssemblerAcceptsExactlyInstructionLines : Prop :=
  (∀ l : AsmLine, (∃ w, l.assemble = some w) ↔ ∃ i : Instr, i.line = l) ∧
  (∀ i : Instr, i.line.assemble = some (encode i))

/-! ## Fetch, cycle and transitions -/

/-- The fetched word is the byte at `pc` above the byte at `pc + 1` modulo 2^16 (R54, R72; D3). Above memory it is 0,
but at 0xFFFF its low byte is `mem[0x000]`, since `pc + 1` wraps (log 10); at 0x0FFF its low byte is 0. -/
def Obligations.FetchReadsBigEndianWord : Prop :=
  ∀ s : State,
    s.fetchWord.toNat = (s.memRead s.pc).toNat * 256 + (s.memRead (s.pc + 1)).toNat ∧
    (4096 ≤ s.pc.toNat → s.pc.toNat < 65535 → s.fetchWord = 0) ∧
    (s.pc.toNat = 65535 → s.fetchWord.toNat = (s.memRead 0).toNat) ∧
    (s.pc.toNat = 4095 → s.fetchWord.toNat = (s.memRead 4095).toNat * 256)

/-- When the bytes at `pc` decode to an instruction and the environment asks for a cycle (a listed one, or one with
free inputs: log 1), a step in mode `Run` samples the inputs, advances `pc` by 2, executes that instruction and runs the
timer phase (R75). -/
def Obligations.StepRunsDecodedInstruction : Prop :=
  ∀ (s : State) (inp : CycleInput) (i : Instr),
    s.mode = .run → s.nextRequest = .cycle inp → decode s.fetchWord = .instr i →
    step s = thenTimerPhase (exec i ((s.takeRequest.latch inp).setPc (s.pc + 2))) inp.tick

/-- A word that matches no row changes nothing but `pc`, and the timer phase follows (R74, R75). Rests on exact matching,
D13, and on the wrap of `pc`, D3. -/
def Obligations.UnmatchedWordOnlyAdvancesPc : Prop :=
  ∀ (s : State) (inp : CycleInput),
    s.mode = .run → s.nextRequest = .cycle inp → (∀ m : Mnemonic, s.fetchWord &&& m.mask ≠ m.pattern) →
    step s = .next ((s.takeRequest.latch inp).setPc (s.pc + 2) |>.timerPhase inp.tick)

/-- A cycle in mode `WaitKey(x)` polls the key and runs the timer phase: with a key, `V[x]` takes it and the mode
becomes `Run`; with none, both stay. Nothing else changes but what the timer phase changes (R175, R213; D11). -/
def Obligations.WaitCyclePollsKeyOnly : Prop :=
  ∀ (s : State) (inp : CycleInput) (x : Reg),
    s.mode = .waitKey x → s.nextRequest = .cycle inp →
    (inp.key = none → step s = .next ((s.takeRequest.latch inp).timerPhase inp.tick)) ∧
    (∀ k, inp.key = some k → ∃ u : State, step s = .next (u.timerPhase inp.tick) ∧
      u = { s.takeRequest with inp := inp, V := u.V, mode := .run } ∧
      ∀ z, (u.getV z).toNat = if z = x then k.toNat else (s.getV z).toNat)

/-- A wait that no key ends goes on: after any number of cycles with no key the mode, `pc`, registers, memory and grid
are as they were (R175; D9, and 93_implementation_defined.md A5: the model keeps that run). -/
def Obligations.WaitWithoutKeyNeverEnds : Prop :=
  ∀ (inps : List CycleInput) (s : State) (x : Reg) (rest : List Request),
    s.mode = .waitKey x → s.requests = inps.map .cycle ++ rest → (∀ c ∈ inps, c.key = none) →
    ∃ t : State, Host.Core.run core inps.length s = .next t ∧
      t = { s with ST := t.ST, DT := t.DT, tone := t.tone, inp := t.inp, requests := rest, trace := t.trace }

/-- A timer service asked for alone runs `TimerPhase` and nothing else, in either mode (R207; D12). -/
def Obligations.ServiceRunsTimerPhaseAlone : Prop :=
  ∀ (s : State) (tick : Bool), s.nextRequest = .service tick →
    step s = .next { (s.timerPhase tick) with requests := s.requests.tail }

/-- A reset, alone or asked for together with a cycle, changes neither memory nor the grid (R232). That it replaces the
cycle is D31 (log 9). -/
def Obligations.ResetKeepsMemoryAndDisplay : Prop :=
  ∀ (s : State) (c : Option CycleInput), s.nextRequest = .reset c →
    ∃ t, step s = .next t ∧ t.mem = s.mem ∧ t.fb = s.fb

/-- A reset, alone or asked for together with a cycle, sets the core's state in either mode and makes no output (R230,
R233, R234). The entry address, the stack base (OPEN), the tone and the mode are D6 to D9 and D31. -/
def Obligations.ResetSetsCoreState : Prop :=
  ∀ (s : State) (c : Option CycleInput), s.nextRequest = .reset c →
    ∃ t, step s = .next t ∧ (∀ z, t.getV z = 0) ∧
      t = { s with V := t.V, I := 0, pc := 0x200, sp := s.par.stackBase, DT := 0, ST := 0, tone := false,
                   mode := .run, requests := s.requests.tail }

/-- The core raises no exception, trap or fault: every instruction and every step answers a next state, so every run of
any length goes on (R200, R203, R240). -/
def Obligations.EveryStepAndRunContinues : Prop :=
  (∀ (i : Instr) (s : State), ∃ t, exec i s = .next t) ∧ (∀ s, Continues s) ∧
  (∀ (n : Nat) (s : State), ∃ t : State, Host.Core.run core n s = .next t)

/-! ## Launch and reset (70_reset_and_hazards.md) -/

/-- Launch (R235, R236), for every value of the OPEN parameters (D6, D17 to D20): a program that fits stands at 0x200,
the fonts at 0x000 and 0x050, every other byte is the filler's, the grid is FB_INIT, and the core is as a reset leaves
it; a program that does not fit is never started. The entry address, the tone and the mode there are D7, D8 and D9
(log 9). -/
def Obligations.LaunchBuildsBootState : Prop :=
  ∀ (p : Config.Params) (img : LaunchImage), img.Legal p →
    (img.program.length ≤ 3584 → ∃ s, State.launch p img = some s ∧
      s.par = p ∧ s.fb = img.fb ∧ s.trace = [] ∧ s.requests = img.requests ∧
      (∀ z, s.getV z = 0) ∧ s.I = 0 ∧ s.pc = 0x200 ∧ s.sp = p.stackBase ∧ s.DT = 0 ∧ s.ST = 0 ∧
      s.tone = false ∧ s.mode = .run ∧
      ∀ a : Addr, s.memRead a =
        if a.toNat < 0x050 then img.smallFont.getD a.toNat 0
        else if a.toNat < 0x0F0 then img.largeFont.getD (a.toNat - 0x050) 0
        else if 0x200 ≤ a.toNat ∧ a.toNat < 0x200 + img.program.length then img.program.getD (a.toNat - 0x200) 0
        else img.filler.read a) ∧
    (3584 < img.program.length → State.launch p img = none)

/-- A launch with legal parameters meets the invariant. -/
def Obligations.LaunchMeetsInvariant : Prop :=
  ∀ (p : Config.Params) (img : LaunchImage) (s : State),
    p.Legal → img.Legal p → State.launch p img = some s → Inv s

/-- `State.reset` is the launch with the model's own default parameters (log 4 to 8: its DESIGN CHOICES), and it meets
the invariant. -/
def Obligations.ResetIsDefaultLaunchAndMeetsInvariant : Prop :=
  State.launch Defaults.params Defaults.image = some State.reset ∧ Inv State.reset

/-- Every step keeps the invariant: memory in its canonical form (so equal memories are equal data), the grid of the
machine's size (R30, R31). -/
def Obligations.StepKeepsInvariant : Prop :=
  ∀ s t : State, Inv s → step s = .next t → Inv t

/-! ## The whole machine -/

/-- No step changes the implementation parameters (R7, R31), and output events are only ever added after those already
made (R33; D30). -/
def Obligations.StepKeepsParametersAndPastOutputs : Prop :=
  ∀ s t : State, step s = .next t → t.par = s.par ∧ ∃ es, t.trace = s.trace ++ es

/-- Only Fx0A with no key enters `WaitKey(x)`, and only a key sample or a reset leaves it (R29; D9). -/
def Obligations.ModeChangesOnlyByKeyWaitOrReset : Prop :=
  ∀ s t : State, step s = .next t →
    (∀ x, s.mode = .run → t.mode = .waitKey x → ∃ inp, s.nextRequest = .cycle inp ∧ inp.key = none ∧
      decode s.fetchWord = .instr (.waitKey x)) ∧
    (∀ x, s.mode = .waitKey x → t.mode ≠ .waitKey x → t.mode = .run ∧
      ((∃ inp k, s.nextRequest = .cycle inp ∧ inp.key = some k) ∨ ∃ c, s.nextRequest = .reset c))

/-- The "written by" column of 10_state.md §10, over all instructions: what an instruction that is not listed for an
element leaves unchanged (R23 to R35; D23 for `I`). -/
def Obligations.ElementsChangeOnlyByListedInstructions : Prop :=
  ∀ (i : Instr) (s : State), ∃ t, exec i s = .next t ∧
    (t.I ≠ s.I → i.mnemonic ∈ ([.loadIndex, .addIndex, .fontAddress] : List Mnemonic)) ∧
    (t.pc ≠ s.pc → i.mnemonic ∈ ([.ret, .jump, .call, .jumpV0, .skipEqImm, .skipNeImm, .skipEqReg, .skipNeReg,
      .skipIfKey, .skipIfNotKey] : List Mnemonic)) ∧
    (t.sp ≠ s.sp → i.mnemonic ∈ ([.call, .ret] : List Mnemonic)) ∧
    (t.DT ≠ s.DT → i.mnemonic = .writeDelay) ∧
    (t.ST ≠ s.ST → i.mnemonic = .writeSound) ∧
    t.tone = s.tone ∧
    (t.mode ≠ s.mode → i.mnemonic = .waitKey) ∧
    (t.mem ≠ s.mem → i.mnemonic ∈ ([.call, .bcd, .dump] : List Mnemonic)) ∧
    (t.fb ≠ s.fb → i.mnemonic ∈ ([.clearDisplay, .draw] : List Mnemonic)) ∧
    (t.trace ≠ s.trace → i.mnemonic ∈ ([.clearDisplay, .draw] : List Mnemonic)) ∧
    t.par = s.par ∧ t.inp = s.inp ∧ t.requests = s.requests ∧ t.draws = s.draws

/-- A register changes only where the instruction names it as its result, or where it is VF and the instruction is one of
the six that write VF implicitly (R20, R21; that the flag is VF is D1). -/
def Obligations.RegistersChangeOnlyAsResultOrFlag : Prop :=
  ∀ (i : Instr) (s : State), ∃ t, exec i s = .next t ∧
    ∀ z, t.getV z ≠ s.getV z → writesResult i z = true ∨ (z = 15 ∧ i.mnemonic ∈ implicitFlagWriters)

/-! ## Memory (20_memory.md) -/

/-- R52, and the reads that see it (R51, R60): a write inside memory sets that byte and no other, a write at or above
4096 does nothing, a read there is 0. -/
def Obligations.MemoryWriteSetsOneByteOrNothing : Prop :=
  ∀ (s : State) (a : Addr) (v : Byte),
    s.memWrite a v = { s with mem := (s.memWrite a v).mem } ∧
    (a.toNat < 4096 → (s.memWrite a v).memRead a = v ∧
      ∀ b, b ≠ a → (s.memWrite a v).memRead b = s.memRead b) ∧
    (4096 ≤ a.toNat → s.memWrite a v = s ∧ s.memRead a = 0)

/-- A fetch sees the bytes Fx55 stored, at once: registers `k` and `k + 1` are the word fetched where they were stored
(R62, R238; D25). -/
def Obligations.FetchSeesDumpedBytes : Prop :=
  ∀ (s : State) (x : Reg) (k : Nat), k + 1 ≤ x.toNat → s.I.toNat + k + 1 < 4096 →
    ∃ t, exec (.dump x) s = .next t ∧
      (t.setPc (s.I + BitVec.ofNat 16 k)).fetchWord =
        wordOfBytes (s.getV (BitVec.ofNat 4 k)) (s.getV (BitVec.ofNat 4 (k + 1)))

/-! ## Display instructions (40_display.md) -/

/-- 00E0 (R100): every pixel off, one present event, VF and everything else unchanged, and nothing of the registers or
memory read. That 0x00E0 is its only word rests on exact matching, D13 (log 9). -/
def Obligations.ClearDisplayBlanksGridAndPresents : Prop :=
  (∀ w, decode w = .instr .clearDisplay ↔ w = 0x00E0) ∧
  ∀ s : State, ∃ t, exec .clearDisplay s = .next t ∧
    t = { s with fb := t.fb, trace := s.trace ++ [.present] } ∧
    t.fb.wf s.par ∧ (∀ x y, x < s.par.displayW → y < s.par.displayH → t.fb.get x y = false) ∧
    ∀ s' t', s'.par = s.par → exec .clearDisplay s' = .next t' → t'.fb = t.fb

/-- R101: the pixels a sprite touches, in drawing order, each with its wrapped place and its bit; every pixel of the grid
is flipped once for each sprite bit of 1 that lands on it; VF is 1 exactly when some sprite bit of 1 found its pixel on at
the moment it was composited; one present event; nothing else changes.
Rests on D1, D2 (latching), D4 and D16. -/
def Obligations.DrawCompositesSprite : Prop :=
  ∀ (x y : Reg) (n : Nibble) (s : State), Inv s →
    let ps := s.spritePixels (s.getV x).toNat (s.getV y).toNat s.I n.toNat
    (ps.length = 8 * n.toNat ∧ ∀ row j, row < n.toNat → j < 8 →
      ps[8 * row + j]? = some
        { x := ((s.getV x).toNat + j) % s.par.displayW
          y := ((s.getV y).toNat + row) % s.par.displayH
          d := (s.memRead (s.I + BitVec.ofNat 16 row)).getLsbD (7 - j) }) ∧
    ∃ t, exec (.draw x y n) s = .next t ∧
      t = { s with V := t.V, fb := t.fb, trace := s.trace ++ [.present] } ∧
      t.fb.wf s.par ∧
      (∀ px py, px < s.par.displayW → py < s.par.displayH →
        t.fb.get px py = Bool.xor (s.fb.get px py) (flips ps px py)) ∧
      (∀ z, z ≠ 15 → t.getV z = s.getV z) ∧ (t.getV 15 = 0 ∨ t.getV 15 = 1) ∧
      (t.getV 15 = 1 ↔ ∃ k p, ps[k]? = some p ∧ p.d = true ∧
        (composite s.fb (ps.take k)).1.get p.x p.y = true)

/-- R102, whole: compositing one sprite bit on a pixel of the grid makes the new pixel and the collision contribution of
the truth table, adds the contribution to those before it, and changes no other pixel. -/
def Obligations.CompositorFollowsTruthTable : Prop :=
  ∀ (p : Config.Params) (g : Grid) (seen : Bool) (q : Pixel), g.wf p → q.x < p.displayW → q.y < p.displayH →
    let r := compositePixel (g, seen) q
    (q.d = false → g.get q.x q.y = false → r.1.get q.x q.y = false ∧ r.2 = seen) ∧
    (q.d = false → g.get q.x q.y = true → r.1.get q.x q.y = true ∧ r.2 = seen) ∧
    (q.d = true → g.get q.x q.y = false → r.1.get q.x q.y = true ∧ r.2 = seen) ∧
    (q.d = true → g.get q.x q.y = true → r.1.get q.x q.y = false ∧ r.2 = true) ∧
    r.1.wf p ∧ ∀ x y, (x, y) ≠ (q.x, q.y) → r.1.get x y = g.get x y

/-- R103, first property (the spec's own inference): the same Dxyn twice returns every pixel to its state before the
first, when neither `x` nor `y` is 15. -/
def Obligations.DrawTwiceRestoresGrid : Prop :=
  ∀ (x y : Reg) (n : Nibble) (s : State), Inv s → x ≠ 15 → y ≠ 15 →
    ∃ t u, exec (.draw x y n) s = .next t ∧ exec (.draw x y n) t = .next u ∧ u.fb = s.fb

/-- R103, second property (the spec's own inference): on a grid at least 8 wide and `n` high, VF is 1 exactly when some
sprite bit of 1 lies over a pixel that was on before the draw. -/
def Obligations.DrawFlagIsOverlapBeforeDraw : Prop :=
  ∀ (x y : Reg) (n : Nibble) (s : State), Inv s → 8 ≤ s.par.displayW → n.toNat ≤ s.par.displayH →
    ∃ t, exec (.draw x y n) s = .next t ∧
      (t.getV 15 = 1 ↔ ∃ row j, row < n.toNat ∧ j < 8 ∧
        (s.memRead (s.I + BitVec.ofNat 16 row)).getLsbD (7 - j) = true ∧
        s.fb.get (((s.getV x).toNat + j) % s.par.displayW) (((s.getV y).toNat + row) % s.par.displayH) = true)

/-! ## Control transfer (41_control.md) -/

/-- R112, whole: the word, `pc <- zext_16(nnn)`, nothing else changed, the target below 4096; and a jump to its own
address fetches itself again, only the timer phase (and the sampled inputs) changing state. -/
def Obligations.JumpLoadsAddress : Prop :=
  SelectedBy 0xF000 0x1000 (fun w => .jump (fieldNNN w)) ∧
  (∀ (nnn : BitVec 12) (s : State), ∃ t, exec (.jump nnn) s = .next t ∧
    t = { s with pc := t.pc } ∧ t.pc.toNat = nnn.toNat ∧ t.pc.toNat < 4096) ∧
  (∀ (s : State) (inp : CycleInput), AtSelfJump s → s.nextRequest = .cycle inp →
    ∃ u : State, step s = .next (u.timerPhase inp.tick) ∧ u = { s.takeRequest with inp := inp } ∧
      AtSelfJump (u.timerPhase inp.tick))

/-- R118, whole: the word and `pc <- (nnn + V0) mod 4096`, nothing else changed. -/
def Obligations.JumpV0WrapsAt4096 : Prop :=
  SelectedBy 0xF000 0xB000 (fun w => .jumpV0 (fieldNNN w)) ∧
  ∀ (nnn : BitVec 12) (s : State), ∃ t, exec (.jumpV0 nnn) s = .next t ∧
    t = { s with pc := t.pc } ∧ t.pc.toNat = (nnn.toNat + (s.getV 0).toNat) % 4096

/-- 2nnn (R113, R64, R55): the low byte of `pc` at `sp` and the high byte at `sp + 1`, where those are memory; `sp + 2`;
`pc` is `nnn`; every other byte and everything else unchanged. The stack's direction is D6. -/
def Obligations.CallPushesReturnAddress : Prop :=
  ∀ (nnn : BitVec 12) (s : State), ∃ t, exec (.call nnn) s = .next t ∧
    t = { s with pc := t.pc, sp := s.sp + 2, mem := t.mem } ∧ t.pc.toNat = nnn.toNat ∧
    (s.sp.toNat < 4096 → (t.memRead s.sp).toNat = s.pc.toNat % 256) ∧
    ((s.sp + 1).toNat < 4096 → (t.memRead (s.sp + 1)).toNat = s.pc.toNat / 256) ∧
    ∀ a, a ≠ s.sp → a ≠ s.sp + 1 → t.memRead a = s.memRead a

/-- 00EE (R111, R65): `sp - 2`, then `pc` is the little-endian word there, whatever `sp` is; nothing else changed and
the value is not masked. The stack's direction is D6. -/
def Obligations.ReturnPopsAddress : Prop :=
  ∀ s : State, ∃ t, exec .ret s = .next t ∧ t = { s with pc := t.pc, sp := s.sp - 2 } ∧
    t.pc.toNat = (s.memRead (s.sp - 1)).toNat * 256 + (s.memRead (s.sp - 2)).toNat

/-- The call stack in memory stands for a list of return addresses: 2nnn puts `pc` on it while it fits in memory, and
00EE takes the latest off and goes there, at any depth (R64, R65, R111, R113; D6; the source's property E6). -/
def Obligations.CallStackRefinesReturnAddressList : Prop :=
  ∀ (s : State) (base : Nat) (as : List Addr), HoldsCalls s base as →
    (∀ nnn, s.sp.toNat + 2 ≤ 4096 → ∃ t, exec (.call nnn) s = .next t ∧ HoldsCalls t base (s.pc :: as)) ∧
    (∀ a rest, as = a :: rest → ∃ t, exec .ret s = .next t ∧ t.pc = a ∧ HoldsCalls t base rest)

/-- 3xkk and 4xkk (R114, R115, R110): `pc` goes 2 further when `V[x]` is (is not) `kk`, and only `pc` changes. The wrap
at 2^16 is D3. -/
def Obligations.SkipsOnImmediate : Prop :=
  ∀ (x : Reg) (kk : Byte) (s : State),
    (∃ t, exec (.skipEqImm x kk) s = .next t ∧ t = { s with pc := t.pc } ∧
      t.pc.toNat = if (s.getV x).toNat = kk.toNat then (s.pc.toNat + 2) % 65536 else s.pc.toNat) ∧
    (∃ t, exec (.skipNeImm x kk) s = .next t ∧ t = { s with pc := t.pc } ∧
      t.pc.toNat = if (s.getV x).toNat = kk.toNat then s.pc.toNat else (s.pc.toNat + 2) % 65536)

/-- 5xy0 and 9xy0 (R116, R117, R110): `pc` goes 2 further when `V[x]` is (is not) `V[y]`, and only `pc` changes. The
wrap at 2^16 is D3. -/
def Obligations.SkipsOnRegisters : Prop :=
  ∀ (x y : Reg) (s : State),
    (∃ t, exec (.skipEqReg x y) s = .next t ∧ t = { s with pc := t.pc } ∧
      t.pc.toNat = if (s.getV x).toNat = (s.getV y).toNat then (s.pc.toNat + 2) % 65536 else s.pc.toNat) ∧
    (∃ t, exec (.skipNeReg x y) s = .next t ∧ t = { s with pc := t.pc } ∧
      t.pc.toNat = if (s.getV x).toNat = (s.getV y).toNat then s.pc.toNat else (s.pc.toNat + 2) % 65536)

/-! ## Register loads and the ALU (42_alu.md) -/

/-- R131, whole: the word, `V[x] <- kk`, every other register and everything else unchanged. -/
def Obligations.LoadImmediateSetsRegister : Prop :=
  SelectedBy 0xF000 0x6000 (fun w => .loadImm (fieldX w) (fieldKK w)) ∧
  ∀ (x : Reg) (kk : Byte) (s : State), ∃ t, exec (.loadImm x kk) s = .next t ∧
    t = { s with V := t.V } ∧ ∀ z, (t.getV z).toNat = if z = x then kk.toNat else (s.getV z).toNat

/-- R132, whole: the word, `V[x] <- (V[x] + kk) mod 256`, VF and every other register unchanged unless it is `V[x]`. -/
def Obligations.AddImmediateWrapsWithoutFlag : Prop :=
  SelectedBy 0xF000 0x7000 (fun w => .addImm (fieldX w) (fieldKK w)) ∧
  ∀ (x : Reg) (kk : Byte) (s : State), ∃ t, exec (.addImm x kk) s = .next t ∧
    t = { s with V := t.V } ∧
    ∀ z, (t.getV z).toNat = if z = x then ((s.getV x).toNat + kk.toNat) % 256 else (s.getV z).toNat

/-- R133 to R136, whole: the words; `V[x]` becomes `V[y]`, or the OR, AND or XOR of the two, bit by bit; every other
register (VF is not reset) and everything else unchanged. -/
def Obligations.MoveAndLogicSetOnlyResult : Prop :=
  (EncodedBy 0xF00F 0x8000 (fun w => .move (fieldX w) (fieldY w)) ∧
    EncodedBy 0xF00F 0x8001 (fun w => .orReg (fieldX w) (fieldY w)) ∧
    EncodedBy 0xF00F 0x8002 (fun w => .andReg (fieldX w) (fieldY w)) ∧
    EncodedBy 0xF00F 0x8003 (fun w => .xorReg (fieldX w) (fieldY w))) ∧
  ∀ (x y : Reg) (s : State),
    (∃ t, exec (.move x y) s = .next t ∧ t = { s with V := t.V } ∧
      ∀ z, t.getV z = if z = x then s.getV y else s.getV z) ∧
    (∃ t, exec (.orReg x y) s = .next t ∧ t = { s with V := t.V } ∧ (∀ z, z ≠ x → t.getV z = s.getV z) ∧
      ∀ b, (t.getV x).getLsbD b = ((s.getV x).getLsbD b || (s.getV y).getLsbD b)) ∧
    (∃ t, exec (.andReg x y) s = .next t ∧ t = { s with V := t.V } ∧ (∀ z, z ≠ x → t.getV z = s.getV z) ∧
      ∀ b, (t.getV x).getLsbD b = ((s.getV x).getLsbD b && (s.getV y).getLsbD b)) ∧
    (∃ t, exec (.xorReg x y) s = .next t ∧ t = { s with V := t.V } ∧ (∀ z, z ≠ x → t.getV z = s.getV z) ∧
      ∀ b, (t.getV x).getLsbD b = Bool.xor ((s.getV x).getLsbD b) ((s.getV y).getLsbD b))

/-- 8xy4 (R137): `V[x]` is the sum modulo 256, VF the carry as 0 or 1; where `x = 15` the result stays and the flag is
lost, where `y = 15` the old VF is added. That the flag is VF is D1, the latching and the order D2 (R22). -/
def Obligations.AddSetsSumAndCarry : Prop :=
  ∀ (x y : Reg) (s : State), ∃ t, exec (.addCarry x y) s = .next t ∧ t = { s with V := t.V } ∧
    ∀ z, (t.getV z).toNat =
      if z = x then ((s.getV x).toNat + (s.getV y).toNat) % 256
      else if z = 15 then (if 255 < (s.getV x).toNat + (s.getV y).toNat then 1 else 0)
      else (s.getV z).toNat

/-- 8xy5 and 8xy7 (R138, R140): both store `V[x] - V[y]` modulo 256; VF is 1 when `V[x] > V[y]` for 8xy5 and when
`V[x] < V[y]` for 8xy7, both strict. The quirk is D14, the flag register D1, latching and order D2. -/
def Obligations.SubtractionsStoreSameDifference : Prop :=
  ∀ (x y : Reg) (s : State),
    (∃ t, exec (.sub x y) s = .next t ∧ t = { s with V := t.V } ∧
      ∀ z, (t.getV z).toNat =
        if z = x then ((s.getV x).toNat + 256 - (s.getV y).toNat) % 256
        else if z = 15 then (if (s.getV y).toNat < (s.getV x).toNat then 1 else 0)
        else (s.getV z).toNat) ∧
    (∃ t, exec (.subReversed x y) s = .next t ∧ t = { s with V := t.V } ∧
      ∀ z, (t.getV z).toNat =
        if z = x then ((s.getV x).toNat + 256 - (s.getV y).toNat) % 256
        else if z = 15 then (if (s.getV x).toNat < (s.getV y).toNat then 1 else 0)
        else (s.getV z).toNat)

/-- 8xy6 and 8xyE (R139, R141): half and double of `V[x]`, VF the bit shifted out as 0 or 1, `V[y]` not read: any two
words that differ in `y` alone do the same. The flag's form is D15, the flag register D1, latching and order D2. -/
def Obligations.ShiftsMoveOneBitIntoFlag : Prop :=
  ∀ (x y y' : Reg) (s : State),
    (∃ t, exec (.shiftRight x y) s = .next t ∧ exec (.shiftRight x y') s = .next t ∧ t = { s with V := t.V } ∧
      ∀ z, (t.getV z).toNat =
        if z = x then (s.getV x).toNat / 2
        else if z = 15 then (s.getV x).toNat % 2
        else (s.getV z).toNat) ∧
    (∃ t, exec (.shiftLeft x y) s = .next t ∧ exec (.shiftLeft x y') s = .next t ∧ t = { s with V := t.V } ∧
      ∀ z, (t.getV z).toNat =
        if z = x then (s.getV x).toNat * 2 % 256
        else if z = 15 then (s.getV x).toNat / 128
        else (s.getV z).toNat)

/-- Cxkk (R142): `V[x]` is the cycle's random byte AND `kk`, for every value of that byte: bits outside `kk` are 0, bits
inside are the draw's. The free draw is D22 (log 1). -/
def Obligations.RandomMasksFreeByte : Prop :=
  ∀ (x : Reg) (kk : Byte) (s : State), ∃ t, exec (.random x kk) s = .next t ∧ t = { s with V := t.V } ∧
    (∀ z, z ≠ x → t.getV z = s.getV z) ∧
    ∀ b, (t.getV x).getLsbD b = (s.inp.rnd.getLsbD b && kk.getLsbD b)

/-! ## Index register and memory instructions (43_index_memory.md) -/

/-- Annn, Fx1E and Fx29 (R151 to R153): `I` is `nnn`, `I + V[x]` modulo 2^16, or 5 times the whole byte `V[x]`; VF and
everything else unchanged. The width and the missing flag of Fx1E are D4. -/
def Obligations.IndexRegisterWrites : Prop :=
  (∀ (nnn : BitVec 12) (s : State), ∃ t, exec (.loadIndex nnn) s = .next t ∧ t = { s with I := t.I } ∧
    t.I.toNat = nnn.toNat) ∧
  (∀ (x : Reg) (s : State), ∃ t, exec (.addIndex x) s = .next t ∧ t = { s with I := t.I } ∧
    t.I.toNat = (s.I.toNat + (s.getV x).toNat) % 65536) ∧
  (∀ (x : Reg) (s : State), ∃ t, exec (.fontAddress x) s = .next t ∧ t = { s with I := t.I } ∧
    t.I.toNat = (s.getV x).toNat * 5)

/-- Fx33 (R154): its words; the hundreds, tens and units digits of `V[x]` at `I`, `I + 1` and `I + 2` modulo 2^16, each
where that is memory and dropped where it is not; each digit at most 9 and the hundreds at most 2; every other byte,
`I` and everything else unchanged. The wrap of the address is D4, that `I` stays D23 (log 9). -/
def Obligations.BcdStoresThreeDigits : Prop :=
  EncodedBy 0xF0FF 0xF033 (fun w => .bcd (fieldX w)) ∧
  ∀ (x : Reg) (s : State), ∃ t, exec (.bcd x) s = .next t ∧ t = { s with mem := t.mem } ∧
    (s.I.toNat < 4096 → (t.memRead s.I).toNat = (s.getV x).toNat / 100 ∧ (t.memRead s.I).toNat ≤ 2) ∧
    ((s.I + 1).toNat < 4096 →
      (t.memRead (s.I + 1)).toNat = (s.getV x).toNat / 10 % 10 ∧ (t.memRead (s.I + 1)).toNat ≤ 9) ∧
    ((s.I + 2).toNat < 4096 →
      (t.memRead (s.I + 2)).toNat = (s.getV x).toNat % 10 ∧ (t.memRead (s.I + 2)).toNat ≤ 9) ∧
    ∀ a, a ≠ s.I → a ≠ s.I + 1 → a ≠ s.I + 2 → t.memRead a = s.memRead a

/-- Fx55 (R155): byte `k` of the block, for `k` from 0 to `x`, is `V[k]` where its address is memory; every other byte,
`I` and everything else unchanged. That `I` stays is D23, the wrap of the address D4. -/
def Obligations.DumpStoresRegisterBlock : Prop :=
  ∀ (x : Reg) (s : State), ∃ t, exec (.dump x) s = .next t ∧ t = { s with mem := t.mem } ∧
    (∀ k, k ≤ x.toNat → (s.effAddr k).toNat < 4096 → t.memRead (s.effAddr k) = s.getV (BitVec.ofNat 4 k)) ∧
    ∀ a, (∀ k, k ≤ x.toNat → a ≠ s.effAddr k) → t.memRead a = s.memRead a

/-- Fx65 (R156): `V[k]`, for `k` from 0 to `x`, is byte `k` of the block (0 where its address is not memory); every
register above `x`, `I` and everything else unchanged. That `I` stays is D23, the wrap of the address D4. -/
def Obligations.LoadReadsRegisterBlock : Prop :=
  ∀ (x : Reg) (s : State), ∃ t, exec (.load x) s = .next t ∧ t = { s with V := t.V } ∧
    ∀ z, t.getV z = if z.toNat ≤ x.toNat then s.memRead (s.effAddr z.toNat) else s.getV z

/-- The source's property E9: Fx55, then any state with the same memory and `I`, then Fx65, gives back `V0` to `Vx`,
when the block lies in memory (R155, R156; D23). -/
def Obligations.DumpThenLoadRestoresRegisters : Prop :=
  ∀ (x : Reg) (s : State), s.I.toNat + x.toNat < 4096 →
    ∃ t, exec (.dump x) s = .next t ∧
      ∀ u : State, u.mem = t.mem → u.I = t.I →
        ∃ v, exec (.load x) u = .next v ∧ ∀ z, z.toNat ≤ x.toNat → v.getV z = s.getV z

/-! ## Keys and timers (44_keys_timers.md, 60_exceptions.md) -/

/-- Ex9E and ExA1 (R171, R172, R110): the first skips when the key sample is a key equal to `V[x]`, the second when it
is not; with no key the first never skips and the second always does, and so with `V[x]` above 15. Only `pc` changes.
The level sample is D21, the wrap D3. -/
def Obligations.KeySkipsCompareOneSample : Prop :=
  ∀ (x : Reg) (s : State),
    let pressed := ∃ k, s.inp.key = some k ∧ k.toNat = (s.getV x).toNat
    (∃ t, exec (.skipIfKey x) s = .next t ∧ t = { s with pc := t.pc } ∧
      (pressed → t.pc = s.pc + 2) ∧ (¬pressed → t.pc = s.pc)) ∧
    (∃ t, exec (.skipIfNotKey x) s = .next t ∧ t = { s with pc := t.pc } ∧
      (pressed → t.pc = s.pc) ∧ (¬pressed → t.pc = s.pc + 2)) ∧
    (16 ≤ (s.getV x).toNat → ¬pressed)

/-- R173, whole: the word, `V[x] <- DT`, nothing else changed, and in a cycle the value is `DT` before the timer phase. -/
def Obligations.ReadDelayGivesTimerBeforePhase : Prop :=
  EncodedBy 0xF0FF 0xF007 (fun w => .readDelay (fieldX w)) ∧
  (∀ (x : Reg) (s : State), ∃ t, exec (.readDelay x) s = .next t ∧ t = { s with V := t.V } ∧
    ∀ z, t.getV z = if z = x then s.DT else s.getV z) ∧
  (∀ (x : Reg) (s : State) (inp : CycleInput), s.mode = .run → s.nextRequest = .cycle inp →
    decode s.fetchWord = .instr (.readDelay x) →
    ∃ t, step s = .next t ∧ t.getV x = s.DT ∧
      t.DT.toNat = if inp.tick = true then s.DT.toNat - 1 else s.DT.toNat)

/-- R176, whole: the word, `DT <- V[x]`, nothing else changed, and in a cycle with `tick` the new value is already
decremented once, 0 staying 0. -/
def Obligations.WriteDelaySetsTimer : Prop :=
  EncodedBy 0xF0FF 0xF015 (fun w => .writeDelay (fieldX w)) ∧
  (∀ (x : Reg) (s : State), exec (.writeDelay x) s = .next { s with DT := s.getV x }) ∧
  (∀ (x : Reg) (s : State) (inp : CycleInput), s.mode = .run → s.nextRequest = .cycle inp →
    decode s.fetchWord = .instr (.writeDelay x) →
    ∃ t, step s = .next t ∧
      t.DT.toNat = if inp.tick = true then (s.getV x).toNat - 1 else (s.getV x).toNat)

/-- R177, whole: the word, `ST <- V[x]` with the tone and everything else unchanged; in a cycle the tone changes only when
`tick` is 1, and then to whether `V[x]` is above 0, while `ST` counts down; `V[x] = 1` gives one service with the tone on
and the next one turns it off, and so does `V[x] = 0` at once at the next service. -/
def Obligations.WriteSoundDrivesToneOnlyAtService : Prop :=
  EncodedBy 0xF0FF 0xF018 (fun w => .writeSound (fieldX w)) ∧
  (∀ (x : Reg) (s : State), ∃ t, exec (.writeSound x) s = .next t ∧ t = { s with ST := s.getV x } ∧
    ((s.getV x).toNat = 0 → t.tone = s.tone ∧ (t.timerPhase true).tone = false) ∧
    ((s.getV x).toNat = 1 → (t.timerPhase true).tone = true ∧ ((t.timerPhase true).timerPhase true).tone = false)) ∧
  (∀ (x : Reg) (s : State) (inp : CycleInput), s.mode = .run → s.nextRequest = .cycle inp →
    decode s.fetchWord = .instr (.writeSound x) →
    ∃ t, step s = .next t ∧
      t.ST.toNat = (if inp.tick = true then (s.getV x).toNat - 1 else (s.getV x).toNat) ∧
      t.tone = (if inp.tick = true then decide (0 < (s.getV x).toNat) else s.tone))

/-- Fx0A (R174): a key held now goes to `V[x]` and the mode stays; with none the mode becomes `WaitKey(x)`. `pc` and
everything else unchanged. The level sample is D21. -/
def Obligations.WaitKeyTakesHeldKeyOrWaits : Prop :=
  ∀ (x : Reg) (s : State), ∃ t, exec (.waitKey x) s = .next t ∧
    (∀ k, s.inp.key = some k → t = { s with V := t.V } ∧
      ∀ z, (t.getV z).toNat = if z = x then k.toNat else (s.getV z).toNat) ∧
    (s.inp.key = none → t = { s with mode := .waitKey x })

/-- The timer phase (R205): with `tick = 0` nothing changes; with `tick = 1` a sound timer above 0 counts down and turns
the tone on, a sound timer at 0 turns it off, one ToneSet call says so either way, and the delay timer counts down to 0;
nothing else changes. It is the last step of every cycle and the whole of an explicit service. That a `WaitKey` cycle
ends with it is D11, the explicit service is D12, the cycle as one step D28 (log 9). -/
def Obligations.TimerPhaseCountsDownAndDrivesTone : Prop :=
  (∀ s : State, s.timerPhase false = s ∧
    ∃ t, s.timerPhase true = t ∧
      t = { s with ST := t.ST, DT := t.DT, tone := decide (0 < s.ST.toNat),
                   trace := s.trace ++ [.toneSet (decide (0 < s.ST.toNat))] } ∧
      t.ST.toNat = s.ST.toNat - 1 ∧ t.DT.toNat = s.DT.toNat - 1) ∧
  (∀ (s : State) (tick : Bool), s.nextRequest = .service tick → step s = .next (s.takeRequest.timerPhase tick)) ∧
  (∀ (s : State) (inp : CycleInput), s.nextRequest = .cycle inp →
    ∃ u : State, step s = .next (u.timerPhase inp.tick) ∧
      ((s.mode = .run ∧ execWord s.fetchWord (s.takeRequest.latch inp).advance = .next u) ∨
       ∃ x, s.mode = .waitKey x ∧ u = (s.takeRequest.latch inp).pollKey x))

/-- R208 (the spec's own inference from R205): over `n` services with `tick = 1` both timers count down by `n` and stop
at 0, the tone is driven on while the sound timer lasted and off after it, and nothing else changes. -/
def Obligations.ServicesCountTimersDownToZero : Prop :=
  ∀ (n : Nat) (s : State), ∃ t, s.services n = t ∧
    t.ST.toNat = s.ST.toNat - n ∧ t.DT.toNat = s.DT.toNat - n ∧
    t.trace = s.trace ++ List.replicate (min n s.ST.toNat) (.toneSet true) ++
      List.replicate (n - s.ST.toNat) (.toneSet false) ∧
    (0 < n → t.tone = decide (n ≤ s.ST.toNat)) ∧
    t = { s with ST := t.ST, DT := t.DT, tone := t.tone, trace := t.trace }
end

