-- ==== Sys2Proof/Laws/State.lean ====
section
/-! SUPPORT. One lemma per field per update, and per reader per update, each true by unfolding the update once. -/

namespace Sys2Proof.Machine

variable (s : State)

/-! ### `State.memWrite` -/

@[simp] theorem State.memWrite_V (a : Addr) (v : Byte) : (s.memWrite a v).V = s.V := rfl
@[simp] theorem State.memWrite_I (a : Addr) (v : Byte) : (s.memWrite a v).I = s.I := rfl
@[simp] theorem State.memWrite_pc (a : Addr) (v : Byte) : (s.memWrite a v).pc = s.pc := rfl
@[simp] theorem State.memWrite_sp (a : Addr) (v : Byte) : (s.memWrite a v).sp = s.sp := rfl
@[simp] theorem State.memWrite_DT (a : Addr) (v : Byte) : (s.memWrite a v).DT = s.DT := rfl
@[simp] theorem State.memWrite_ST (a : Addr) (v : Byte) : (s.memWrite a v).ST = s.ST := rfl
@[simp] theorem State.memWrite_tone (a : Addr) (v : Byte) : (s.memWrite a v).tone = s.tone := rfl
@[simp] theorem State.memWrite_mode (a : Addr) (v : Byte) : (s.memWrite a v).mode = s.mode := rfl
@[simp] theorem State.memWrite_mem (a : Addr) (v : Byte) : (s.memWrite a v).mem = s.mem.write a v := rfl
@[simp] theorem State.memWrite_fb (a : Addr) (v : Byte) : (s.memWrite a v).fb = s.fb := rfl
@[simp] theorem State.memWrite_par (a : Addr) (v : Byte) : (s.memWrite a v).par = s.par := rfl
@[simp] theorem State.memWrite_inp (a : Addr) (v : Byte) : (s.memWrite a v).inp = s.inp := rfl
@[simp] theorem State.memWrite_requests (a : Addr) (v : Byte) : (s.memWrite a v).requests = s.requests := rfl
@[simp] theorem State.memWrite_draws (a : Addr) (v : Byte) : (s.memWrite a v).draws = s.draws := rfl
@[simp] theorem State.memWrite_trace (a : Addr) (v : Byte) : (s.memWrite a v).trace = s.trace := rfl
@[simp] theorem State.memWrite_getV (a : Addr) (v : Byte) (z : Reg) : (s.memWrite a v).getV z = s.getV z := rfl
@[simp] theorem State.memWrite_effAddr (a : Addr) (v : Byte) (k : Nat) : (s.memWrite a v).effAddr k = s.effAddr k := rfl
@[simp] theorem State.memWrite_keyIn (a : Addr) (v : Byte) : (s.memWrite a v).keyIn = s.keyIn := rfl
@[simp] theorem State.memWrite_randIn (a : Addr) (v : Byte) : (s.memWrite a v).randIn = s.randIn := rfl

/-! ### `State.setV` -/

@[simp] theorem State.setV_I (x : Reg) (v : Byte) : (s.setV x v).I = s.I := rfl
@[simp] theorem State.setV_pc (x : Reg) (v : Byte) : (s.setV x v).pc = s.pc := rfl
@[simp] theorem State.setV_sp (x : Reg) (v : Byte) : (s.setV x v).sp = s.sp := rfl
@[simp] theorem State.setV_DT (x : Reg) (v : Byte) : (s.setV x v).DT = s.DT := rfl
@[simp] theorem State.setV_ST (x : Reg) (v : Byte) : (s.setV x v).ST = s.ST := rfl
@[simp] theorem State.setV_tone (x : Reg) (v : Byte) : (s.setV x v).tone = s.tone := rfl
@[simp] theorem State.setV_mode (x : Reg) (v : Byte) : (s.setV x v).mode = s.mode := rfl
@[simp] theorem State.setV_mem (x : Reg) (v : Byte) : (s.setV x v).mem = s.mem := rfl
@[simp] theorem State.setV_fb (x : Reg) (v : Byte) : (s.setV x v).fb = s.fb := rfl
@[simp] theorem State.setV_par (x : Reg) (v : Byte) : (s.setV x v).par = s.par := rfl
@[simp] theorem State.setV_inp (x : Reg) (v : Byte) : (s.setV x v).inp = s.inp := rfl
@[simp] theorem State.setV_requests (x : Reg) (v : Byte) : (s.setV x v).requests = s.requests := rfl
@[simp] theorem State.setV_draws (x : Reg) (v : Byte) : (s.setV x v).draws = s.draws := rfl
@[simp] theorem State.setV_trace (x : Reg) (v : Byte) : (s.setV x v).trace = s.trace := rfl
@[simp] theorem State.setV_memRead (x : Reg) (v : Byte) (a' : Addr) : (s.setV x v).memRead a' = s.memRead a' := rfl
@[simp] theorem State.setV_effAddr (x : Reg) (v : Byte) (k : Nat) : (s.setV x v).effAddr k = s.effAddr k := rfl
@[simp] theorem State.setV_keyIn (x : Reg) (v : Byte) : (s.setV x v).keyIn = s.keyIn := rfl
@[simp] theorem State.setV_randIn (x : Reg) (v : Byte) : (s.setV x v).randIn = s.randIn := rfl

/-! ### `State.setFlag` -/

@[simp] theorem State.setFlag_I (b : Bool) : (s.setFlag b).I = s.I := rfl
@[simp] theorem State.setFlag_pc (b : Bool) : (s.setFlag b).pc = s.pc := rfl
@[simp] theorem State.setFlag_sp (b : Bool) : (s.setFlag b).sp = s.sp := rfl
@[simp] theorem State.setFlag_DT (b : Bool) : (s.setFlag b).DT = s.DT := rfl
@[simp] theorem State.setFlag_ST (b : Bool) : (s.setFlag b).ST = s.ST := rfl
@[simp] theorem State.setFlag_tone (b : Bool) : (s.setFlag b).tone = s.tone := rfl
@[simp] theorem State.setFlag_mode (b : Bool) : (s.setFlag b).mode = s.mode := rfl
@[simp] theorem State.setFlag_mem (b : Bool) : (s.setFlag b).mem = s.mem := rfl
@[simp] theorem State.setFlag_fb (b : Bool) : (s.setFlag b).fb = s.fb := rfl
@[simp] theorem State.setFlag_par (b : Bool) : (s.setFlag b).par = s.par := rfl
@[simp] theorem State.setFlag_inp (b : Bool) : (s.setFlag b).inp = s.inp := rfl
@[simp] theorem State.setFlag_requests (b : Bool) : (s.setFlag b).requests = s.requests := rfl
@[simp] theorem State.setFlag_draws (b : Bool) : (s.setFlag b).draws = s.draws := rfl
@[simp] theorem State.setFlag_trace (b : Bool) : (s.setFlag b).trace = s.trace := rfl
@[simp] theorem State.setFlag_memRead (b : Bool) (a' : Addr) : (s.setFlag b).memRead a' = s.memRead a' := rfl
@[simp] theorem State.setFlag_effAddr (b : Bool) (k : Nat) : (s.setFlag b).effAddr k = s.effAddr k := rfl
@[simp] theorem State.setFlag_keyIn (b : Bool) : (s.setFlag b).keyIn = s.keyIn := rfl
@[simp] theorem State.setFlag_randIn (b : Bool) : (s.setFlag b).randIn = s.randIn := rfl

/-! ### `State.setI` -/

@[simp] theorem State.setI_V (a : Addr) : (s.setI a).V = s.V := rfl
@[simp] theorem State.setI_I (a : Addr) : (s.setI a).I = a := rfl
@[simp] theorem State.setI_pc (a : Addr) : (s.setI a).pc = s.pc := rfl
@[simp] theorem State.setI_sp (a : Addr) : (s.setI a).sp = s.sp := rfl
@[simp] theorem State.setI_DT (a : Addr) : (s.setI a).DT = s.DT := rfl
@[simp] theorem State.setI_ST (a : Addr) : (s.setI a).ST = s.ST := rfl
@[simp] theorem State.setI_tone (a : Addr) : (s.setI a).tone = s.tone := rfl
@[simp] theorem State.setI_mode (a : Addr) : (s.setI a).mode = s.mode := rfl
@[simp] theorem State.setI_mem (a : Addr) : (s.setI a).mem = s.mem := rfl
@[simp] theorem State.setI_fb (a : Addr) : (s.setI a).fb = s.fb := rfl
@[simp] theorem State.setI_par (a : Addr) : (s.setI a).par = s.par := rfl
@[simp] theorem State.setI_inp (a : Addr) : (s.setI a).inp = s.inp := rfl
@[simp] theorem State.setI_requests (a : Addr) : (s.setI a).requests = s.requests := rfl
@[simp] theorem State.setI_draws (a : Addr) : (s.setI a).draws = s.draws := rfl
@[simp] theorem State.setI_trace (a : Addr) : (s.setI a).trace = s.trace := rfl
@[simp] theorem State.setI_getV (a : Addr) (z : Reg) : (s.setI a).getV z = s.getV z := rfl
@[simp] theorem State.setI_memRead (a : Addr) (a' : Addr) : (s.setI a).memRead a' = s.memRead a' := rfl
@[simp] theorem State.setI_keyIn (a : Addr) : (s.setI a).keyIn = s.keyIn := rfl
@[simp] theorem State.setI_randIn (a : Addr) : (s.setI a).randIn = s.randIn := rfl

/-! ### `State.setPc` -/

@[simp] theorem State.setPc_V (a : Addr) : (s.setPc a).V = s.V := rfl
@[simp] theorem State.setPc_I (a : Addr) : (s.setPc a).I = s.I := rfl
@[simp] theorem State.setPc_pc (a : Addr) : (s.setPc a).pc = a := rfl
@[simp] theorem State.setPc_sp (a : Addr) : (s.setPc a).sp = s.sp := rfl
@[simp] theorem State.setPc_DT (a : Addr) : (s.setPc a).DT = s.DT := rfl
@[simp] theorem State.setPc_ST (a : Addr) : (s.setPc a).ST = s.ST := rfl
@[simp] theorem State.setPc_tone (a : Addr) : (s.setPc a).tone = s.tone := rfl
@[simp] theorem State.setPc_mode (a : Addr) : (s.setPc a).mode = s.mode := rfl
@[simp] theorem State.setPc_mem (a : Addr) : (s.setPc a).mem = s.mem := rfl
@[simp] theorem State.setPc_fb (a : Addr) : (s.setPc a).fb = s.fb := rfl
@[simp] theorem State.setPc_par (a : Addr) : (s.setPc a).par = s.par := rfl
@[simp] theorem State.setPc_inp (a : Addr) : (s.setPc a).inp = s.inp := rfl
@[simp] theorem State.setPc_requests (a : Addr) : (s.setPc a).requests = s.requests := rfl
@[simp] theorem State.setPc_draws (a : Addr) : (s.setPc a).draws = s.draws := rfl
@[simp] theorem State.setPc_trace (a : Addr) : (s.setPc a).trace = s.trace := rfl
@[simp] theorem State.setPc_getV (a : Addr) (z : Reg) : (s.setPc a).getV z = s.getV z := rfl
@[simp] theorem State.setPc_memRead (a : Addr) (a' : Addr) : (s.setPc a).memRead a' = s.memRead a' := rfl
@[simp] theorem State.setPc_effAddr (a : Addr) (k : Nat) : (s.setPc a).effAddr k = s.effAddr k := rfl
@[simp] theorem State.setPc_keyIn (a : Addr) : (s.setPc a).keyIn = s.keyIn := rfl
@[simp] theorem State.setPc_randIn (a : Addr) : (s.setPc a).randIn = s.randIn := rfl

/-! ### `State.setSp` -/

@[simp] theorem State.setSp_V (a : Addr) : (s.setSp a).V = s.V := rfl
@[simp] theorem State.setSp_I (a : Addr) : (s.setSp a).I = s.I := rfl
@[simp] theorem State.setSp_pc (a : Addr) : (s.setSp a).pc = s.pc := rfl
@[simp] theorem State.setSp_sp (a : Addr) : (s.setSp a).sp = a := rfl
@[simp] theorem State.setSp_DT (a : Addr) : (s.setSp a).DT = s.DT := rfl
@[simp] theorem State.setSp_ST (a : Addr) : (s.setSp a).ST = s.ST := rfl
@[simp] theorem State.setSp_tone (a : Addr) : (s.setSp a).tone = s.tone := rfl
@[simp] theorem State.setSp_mode (a : Addr) : (s.setSp a).mode = s.mode := rfl
@[simp] theorem State.setSp_mem (a : Addr) : (s.setSp a).mem = s.mem := rfl
@[simp] theorem State.setSp_fb (a : Addr) : (s.setSp a).fb = s.fb := rfl
@[simp] theorem State.setSp_par (a : Addr) : (s.setSp a).par = s.par := rfl
@[simp] theorem State.setSp_inp (a : Addr) : (s.setSp a).inp = s.inp := rfl
@[simp] theorem State.setSp_requests (a : Addr) : (s.setSp a).requests = s.requests := rfl
@[simp] theorem State.setSp_draws (a : Addr) : (s.setSp a).draws = s.draws := rfl
@[simp] theorem State.setSp_trace (a : Addr) : (s.setSp a).trace = s.trace := rfl
@[simp] theorem State.setSp_getV (a : Addr) (z : Reg) : (s.setSp a).getV z = s.getV z := rfl
@[simp] theorem State.setSp_memRead (a : Addr) (a' : Addr) : (s.setSp a).memRead a' = s.memRead a' := rfl
@[simp] theorem State.setSp_effAddr (a : Addr) (k : Nat) : (s.setSp a).effAddr k = s.effAddr k := rfl
@[simp] theorem State.setSp_keyIn (a : Addr) : (s.setSp a).keyIn = s.keyIn := rfl
@[simp] theorem State.setSp_randIn (a : Addr) : (s.setSp a).randIn = s.randIn := rfl

/-! ### `State.setDT` -/

@[simp] theorem State.setDT_V (v : Byte) : (s.setDT v).V = s.V := rfl
@[simp] theorem State.setDT_I (v : Byte) : (s.setDT v).I = s.I := rfl
@[simp] theorem State.setDT_pc (v : Byte) : (s.setDT v).pc = s.pc := rfl
@[simp] theorem State.setDT_sp (v : Byte) : (s.setDT v).sp = s.sp := rfl
@[simp] theorem State.setDT_DT (v : Byte) : (s.setDT v).DT = v := rfl
@[simp] theorem State.setDT_ST (v : Byte) : (s.setDT v).ST = s.ST := rfl
@[simp] theorem State.setDT_tone (v : Byte) : (s.setDT v).tone = s.tone := rfl
@[simp] theorem State.setDT_mode (v : Byte) : (s.setDT v).mode = s.mode := rfl
@[simp] theorem State.setDT_mem (v : Byte) : (s.setDT v).mem = s.mem := rfl
@[simp] theorem State.setDT_fb (v : Byte) : (s.setDT v).fb = s.fb := rfl
@[simp] theorem State.setDT_par (v : Byte) : (s.setDT v).par = s.par := rfl
@[simp] theorem State.setDT_inp (v : Byte) : (s.setDT v).inp = s.inp := rfl
@[simp] theorem State.setDT_requests (v : Byte) : (s.setDT v).requests = s.requests := rfl
@[simp] theorem State.setDT_draws (v : Byte) : (s.setDT v).draws = s.draws := rfl
@[simp] theorem State.setDT_trace (v : Byte) : (s.setDT v).trace = s.trace := rfl
@[simp] theorem State.setDT_getV (v : Byte) (z : Reg) : (s.setDT v).getV z = s.getV z := rfl
@[simp] theorem State.setDT_memRead (v : Byte) (a' : Addr) : (s.setDT v).memRead a' = s.memRead a' := rfl
@[simp] theorem State.setDT_effAddr (v : Byte) (k : Nat) : (s.setDT v).effAddr k = s.effAddr k := rfl
@[simp] theorem State.setDT_keyIn (v : Byte) : (s.setDT v).keyIn = s.keyIn := rfl
@[simp] theorem State.setDT_randIn (v : Byte) : (s.setDT v).randIn = s.randIn := rfl

/-! ### `State.setST` -/

@[simp] theorem State.setST_V (v : Byte) : (s.setST v).V = s.V := rfl
@[simp] theorem State.setST_I (v : Byte) : (s.setST v).I = s.I := rfl
@[simp] theorem State.setST_pc (v : Byte) : (s.setST v).pc = s.pc := rfl
@[simp] theorem State.setST_sp (v : Byte) : (s.setST v).sp = s.sp := rfl
@[simp] theorem State.setST_DT (v : Byte) : (s.setST v).DT = s.DT := rfl
@[simp] theorem State.setST_ST (v : Byte) : (s.setST v).ST = v := rfl
@[simp] theorem State.setST_tone (v : Byte) : (s.setST v).tone = s.tone := rfl
@[simp] theorem State.setST_mode (v : Byte) : (s.setST v).mode = s.mode := rfl
@[simp] theorem State.setST_mem (v : Byte) : (s.setST v).mem = s.mem := rfl
@[simp] theorem State.setST_fb (v : Byte) : (s.setST v).fb = s.fb := rfl
@[simp] theorem State.setST_par (v : Byte) : (s.setST v).par = s.par := rfl
@[simp] theorem State.setST_inp (v : Byte) : (s.setST v).inp = s.inp := rfl
@[simp] theorem State.setST_requests (v : Byte) : (s.setST v).requests = s.requests := rfl
@[simp] theorem State.setST_draws (v : Byte) : (s.setST v).draws = s.draws := rfl
@[simp] theorem State.setST_trace (v : Byte) : (s.setST v).trace = s.trace := rfl
@[simp] theorem State.setST_getV (v : Byte) (z : Reg) : (s.setST v).getV z = s.getV z := rfl
@[simp] theorem State.setST_memRead (v : Byte) (a' : Addr) : (s.setST v).memRead a' = s.memRead a' := rfl
@[simp] theorem State.setST_effAddr (v : Byte) (k : Nat) : (s.setST v).effAddr k = s.effAddr k := rfl
@[simp] theorem State.setST_keyIn (v : Byte) : (s.setST v).keyIn = s.keyIn := rfl
@[simp] theorem State.setST_randIn (v : Byte) : (s.setST v).randIn = s.randIn := rfl

/-! ### `State.setMode` -/

@[simp] theorem State.setMode_V (m : Mode) : (s.setMode m).V = s.V := rfl
@[simp] theorem State.setMode_I (m : Mode) : (s.setMode m).I = s.I := rfl
@[simp] theorem State.setMode_pc (m : Mode) : (s.setMode m).pc = s.pc := rfl
@[simp] theorem State.setMode_sp (m : Mode) : (s.setMode m).sp = s.sp := rfl
@[simp] theorem State.setMode_DT (m : Mode) : (s.setMode m).DT = s.DT := rfl
@[simp] theorem State.setMode_ST (m : Mode) : (s.setMode m).ST = s.ST := rfl
@[simp] theorem State.setMode_tone (m : Mode) : (s.setMode m).tone = s.tone := rfl
@[simp] theorem State.setMode_mode (m : Mode) : (s.setMode m).mode = m := rfl
@[simp] theorem State.setMode_mem (m : Mode) : (s.setMode m).mem = s.mem := rfl
@[simp] theorem State.setMode_fb (m : Mode) : (s.setMode m).fb = s.fb := rfl
@[simp] theorem State.setMode_par (m : Mode) : (s.setMode m).par = s.par := rfl
@[simp] theorem State.setMode_inp (m : Mode) : (s.setMode m).inp = s.inp := rfl
@[simp] theorem State.setMode_requests (m : Mode) : (s.setMode m).requests = s.requests := rfl
@[simp] theorem State.setMode_draws (m : Mode) : (s.setMode m).draws = s.draws := rfl
@[simp] theorem State.setMode_trace (m : Mode) : (s.setMode m).trace = s.trace := rfl
@[simp] theorem State.setMode_getV (m : Mode) (z : Reg) : (s.setMode m).getV z = s.getV z := rfl
@[simp] theorem State.setMode_memRead (m : Mode) (a' : Addr) : (s.setMode m).memRead a' = s.memRead a' := rfl
@[simp] theorem State.setMode_effAddr (m : Mode) (k : Nat) : (s.setMode m).effAddr k = s.effAddr k := rfl
@[simp] theorem State.setMode_keyIn (m : Mode) : (s.setMode m).keyIn = s.keyIn := rfl
@[simp] theorem State.setMode_randIn (m : Mode) : (s.setMode m).randIn = s.randIn := rfl

/-! ### `State.setFb` -/

@[simp] theorem State.setFb_V (g : Grid) : (s.setFb g).V = s.V := rfl
@[simp] theorem State.setFb_I (g : Grid) : (s.setFb g).I = s.I := rfl
@[simp] theorem State.setFb_pc (g : Grid) : (s.setFb g).pc = s.pc := rfl
@[simp] theorem State.setFb_sp (g : Grid) : (s.setFb g).sp = s.sp := rfl
@[simp] theorem State.setFb_DT (g : Grid) : (s.setFb g).DT = s.DT := rfl
@[simp] theorem State.setFb_ST (g : Grid) : (s.setFb g).ST = s.ST := rfl
@[simp] theorem State.setFb_tone (g : Grid) : (s.setFb g).tone = s.tone := rfl
@[simp] theorem State.setFb_mode (g : Grid) : (s.setFb g).mode = s.mode := rfl
@[simp] theorem State.setFb_mem (g : Grid) : (s.setFb g).mem = s.mem := rfl
@[simp] theorem State.setFb_fb (g : Grid) : (s.setFb g).fb = g := rfl
@[simp] theorem State.setFb_par (g : Grid) : (s.setFb g).par = s.par := rfl
@[simp] theorem State.setFb_inp (g : Grid) : (s.setFb g).inp = s.inp := rfl
@[simp] theorem State.setFb_requests (g : Grid) : (s.setFb g).requests = s.requests := rfl
@[simp] theorem State.setFb_draws (g : Grid) : (s.setFb g).draws = s.draws := rfl
@[simp] theorem State.setFb_trace (g : Grid) : (s.setFb g).trace = s.trace := rfl
@[simp] theorem State.setFb_getV (g : Grid) (z : Reg) : (s.setFb g).getV z = s.getV z := rfl
@[simp] theorem State.setFb_memRead (g : Grid) (a' : Addr) : (s.setFb g).memRead a' = s.memRead a' := rfl
@[simp] theorem State.setFb_effAddr (g : Grid) (k : Nat) : (s.setFb g).effAddr k = s.effAddr k := rfl
@[simp] theorem State.setFb_keyIn (g : Grid) : (s.setFb g).keyIn = s.keyIn := rfl
@[simp] theorem State.setFb_randIn (g : Grid) : (s.setFb g).randIn = s.randIn := rfl

/-! ### `State.emit` -/

@[simp] theorem State.emit_V (e : OutEvent) : (s.emit e).V = s.V := rfl
@[simp] theorem State.emit_I (e : OutEvent) : (s.emit e).I = s.I := rfl
@[simp] theorem State.emit_pc (e : OutEvent) : (s.emit e).pc = s.pc := rfl
@[simp] theorem State.emit_sp (e : OutEvent) : (s.emit e).sp = s.sp := rfl
@[simp] theorem State.emit_DT (e : OutEvent) : (s.emit e).DT = s.DT := rfl
@[simp] theorem State.emit_ST (e : OutEvent) : (s.emit e).ST = s.ST := rfl
@[simp] theorem State.emit_tone (e : OutEvent) : (s.emit e).tone = s.tone := rfl
@[simp] theorem State.emit_mode (e : OutEvent) : (s.emit e).mode = s.mode := rfl
@[simp] theorem State.emit_mem (e : OutEvent) : (s.emit e).mem = s.mem := rfl
@[simp] theorem State.emit_fb (e : OutEvent) : (s.emit e).fb = s.fb := rfl
@[simp] theorem State.emit_par (e : OutEvent) : (s.emit e).par = s.par := rfl
@[simp] theorem State.emit_inp (e : OutEvent) : (s.emit e).inp = s.inp := rfl
@[simp] theorem State.emit_requests (e : OutEvent) : (s.emit e).requests = s.requests := rfl
@[simp] theorem State.emit_draws (e : OutEvent) : (s.emit e).draws = s.draws := rfl
@[simp] theorem State.emit_trace (e : OutEvent) : (s.emit e).trace = s.trace ++ [e] := rfl
@[simp] theorem State.emit_getV (e : OutEvent) (z : Reg) : (s.emit e).getV z = s.getV z := rfl
@[simp] theorem State.emit_memRead (e : OutEvent) (a' : Addr) : (s.emit e).memRead a' = s.memRead a' := rfl
@[simp] theorem State.emit_effAddr (e : OutEvent) (k : Nat) : (s.emit e).effAddr k = s.effAddr k := rfl
@[simp] theorem State.emit_keyIn (e : OutEvent) : (s.emit e).keyIn = s.keyIn := rfl
@[simp] theorem State.emit_randIn (e : OutEvent) : (s.emit e).randIn = s.randIn := rfl

/-! ### `State.latch` -/

@[simp] theorem State.latch_V (c : CycleInput) : (s.latch c).V = s.V := rfl
@[simp] theorem State.latch_I (c : CycleInput) : (s.latch c).I = s.I := rfl
@[simp] theorem State.latch_pc (c : CycleInput) : (s.latch c).pc = s.pc := rfl
@[simp] theorem State.latch_sp (c : CycleInput) : (s.latch c).sp = s.sp := rfl
@[simp] theorem State.latch_DT (c : CycleInput) : (s.latch c).DT = s.DT := rfl
@[simp] theorem State.latch_ST (c : CycleInput) : (s.latch c).ST = s.ST := rfl
@[simp] theorem State.latch_tone (c : CycleInput) : (s.latch c).tone = s.tone := rfl
@[simp] theorem State.latch_mode (c : CycleInput) : (s.latch c).mode = s.mode := rfl
@[simp] theorem State.latch_mem (c : CycleInput) : (s.latch c).mem = s.mem := rfl
@[simp] theorem State.latch_fb (c : CycleInput) : (s.latch c).fb = s.fb := rfl
@[simp] theorem State.latch_par (c : CycleInput) : (s.latch c).par = s.par := rfl
@[simp] theorem State.latch_inp (c : CycleInput) : (s.latch c).inp = c := rfl
@[simp] theorem State.latch_requests (c : CycleInput) : (s.latch c).requests = s.requests := rfl
@[simp] theorem State.latch_draws (c : CycleInput) : (s.latch c).draws = s.draws := rfl
@[simp] theorem State.latch_trace (c : CycleInput) : (s.latch c).trace = s.trace := rfl
@[simp] theorem State.latch_getV (c : CycleInput) (z : Reg) : (s.latch c).getV z = s.getV z := rfl
@[simp] theorem State.latch_memRead (c : CycleInput) (a' : Addr) : (s.latch c).memRead a' = s.memRead a' := rfl
@[simp] theorem State.latch_effAddr (c : CycleInput) (k : Nat) : (s.latch c).effAddr k = s.effAddr k := rfl

/-! ### `State.advance` -/

@[simp] theorem State.advance_V : (s.advance).V = s.V := rfl
@[simp] theorem State.advance_I : (s.advance).I = s.I := rfl
@[simp] theorem State.advance_pc : (s.advance).pc = s.pc + 2 := rfl
@[simp] theorem State.advance_sp : (s.advance).sp = s.sp := rfl
@[simp] theorem State.advance_DT : (s.advance).DT = s.DT := rfl
@[simp] theorem State.advance_ST : (s.advance).ST = s.ST := rfl
@[simp] theorem State.advance_tone : (s.advance).tone = s.tone := rfl
@[simp] theorem State.advance_mode : (s.advance).mode = s.mode := rfl
@[simp] theorem State.advance_mem : (s.advance).mem = s.mem := rfl
@[simp] theorem State.advance_fb : (s.advance).fb = s.fb := rfl
@[simp] theorem State.advance_par : (s.advance).par = s.par := rfl
@[simp] theorem State.advance_inp : (s.advance).inp = s.inp := rfl
@[simp] theorem State.advance_requests : (s.advance).requests = s.requests := rfl
@[simp] theorem State.advance_draws : (s.advance).draws = s.draws := rfl
@[simp] theorem State.advance_trace : (s.advance).trace = s.trace := rfl
@[simp] theorem State.advance_getV (z : Reg) : (s.advance).getV z = s.getV z := rfl
@[simp] theorem State.advance_memRead (a' : Addr) : (s.advance).memRead a' = s.memRead a' := rfl
@[simp] theorem State.advance_effAddr (k : Nat) : (s.advance).effAddr k = s.effAddr k := rfl
@[simp] theorem State.advance_keyIn : (s.advance).keyIn = s.keyIn := rfl
@[simp] theorem State.advance_randIn : (s.advance).randIn = s.randIn := rfl

/-! ### `State.skipIf` -/

@[simp] theorem State.skipIf_V (b : Bool) : (s.skipIf b).V = s.V := rfl
@[simp] theorem State.skipIf_I (b : Bool) : (s.skipIf b).I = s.I := rfl
@[simp] theorem State.skipIf_pc (b : Bool) : (s.skipIf b).pc = if b then s.pc + 2 else s.pc := rfl
@[simp] theorem State.skipIf_sp (b : Bool) : (s.skipIf b).sp = s.sp := rfl
@[simp] theorem State.skipIf_DT (b : Bool) : (s.skipIf b).DT = s.DT := rfl
@[simp] theorem State.skipIf_ST (b : Bool) : (s.skipIf b).ST = s.ST := rfl
@[simp] theorem State.skipIf_tone (b : Bool) : (s.skipIf b).tone = s.tone := rfl
@[simp] theorem State.skipIf_mode (b : Bool) : (s.skipIf b).mode = s.mode := rfl
@[simp] theorem State.skipIf_mem (b : Bool) : (s.skipIf b).mem = s.mem := rfl
@[simp] theorem State.skipIf_fb (b : Bool) : (s.skipIf b).fb = s.fb := rfl
@[simp] theorem State.skipIf_par (b : Bool) : (s.skipIf b).par = s.par := rfl
@[simp] theorem State.skipIf_inp (b : Bool) : (s.skipIf b).inp = s.inp := rfl
@[simp] theorem State.skipIf_requests (b : Bool) : (s.skipIf b).requests = s.requests := rfl
@[simp] theorem State.skipIf_draws (b : Bool) : (s.skipIf b).draws = s.draws := rfl
@[simp] theorem State.skipIf_trace (b : Bool) : (s.skipIf b).trace = s.trace := rfl
@[simp] theorem State.skipIf_getV (b : Bool) (z : Reg) : (s.skipIf b).getV z = s.getV z := rfl
@[simp] theorem State.skipIf_memRead (b : Bool) (a' : Addr) : (s.skipIf b).memRead a' = s.memRead a' := rfl
@[simp] theorem State.skipIf_effAddr (b : Bool) (k : Nat) : (s.skipIf b).effAddr k = s.effAddr k := rfl
@[simp] theorem State.skipIf_keyIn (b : Bool) : (s.skipIf b).keyIn = s.keyIn := rfl
@[simp] theorem State.skipIf_randIn (b : Bool) : (s.skipIf b).randIn = s.randIn := rfl

/-! ### `State.push16` -/

@[simp] theorem State.push16_V (v : Addr) : (s.push16 v).V = s.V := rfl
@[simp] theorem State.push16_I (v : Addr) : (s.push16 v).I = s.I := rfl
@[simp] theorem State.push16_pc (v : Addr) : (s.push16 v).pc = s.pc := rfl
@[simp] theorem State.push16_sp (v : Addr) : (s.push16 v).sp = s.sp + 2 := rfl
@[simp] theorem State.push16_DT (v : Addr) : (s.push16 v).DT = s.DT := rfl
@[simp] theorem State.push16_ST (v : Addr) : (s.push16 v).ST = s.ST := rfl
@[simp] theorem State.push16_tone (v : Addr) : (s.push16 v).tone = s.tone := rfl
@[simp] theorem State.push16_mode (v : Addr) : (s.push16 v).mode = s.mode := rfl
@[simp] theorem State.push16_mem (v : Addr) : (s.push16 v).mem = (s.mem.write s.sp (lowByte v)).write (s.sp + 1) (highByte v) := rfl
@[simp] theorem State.push16_fb (v : Addr) : (s.push16 v).fb = s.fb := rfl
@[simp] theorem State.push16_par (v : Addr) : (s.push16 v).par = s.par := rfl
@[simp] theorem State.push16_inp (v : Addr) : (s.push16 v).inp = s.inp := rfl
@[simp] theorem State.push16_requests (v : Addr) : (s.push16 v).requests = s.requests := rfl
@[simp] theorem State.push16_draws (v : Addr) : (s.push16 v).draws = s.draws := rfl
@[simp] theorem State.push16_trace (v : Addr) : (s.push16 v).trace = s.trace := rfl
@[simp] theorem State.push16_getV (v : Addr) (z : Reg) : (s.push16 v).getV z = s.getV z := rfl
@[simp] theorem State.push16_effAddr (v : Addr) (k : Nat) : (s.push16 v).effAddr k = s.effAddr k := rfl
@[simp] theorem State.push16_keyIn (v : Addr) : (s.push16 v).keyIn = s.keyIn := rfl
@[simp] theorem State.push16_randIn (v : Addr) : (s.push16 v).randIn = s.randIn := rfl

/-! ### `State.pop16` -/

@[simp] theorem State.pop16_V : (s.pop16).V = s.V := rfl
@[simp] theorem State.pop16_I : (s.pop16).I = s.I := rfl
@[simp] theorem State.pop16_pc : (s.pop16).pc = s.pc := rfl
@[simp] theorem State.pop16_sp : (s.pop16).sp = s.sp - 2 := rfl
@[simp] theorem State.pop16_DT : (s.pop16).DT = s.DT := rfl
@[simp] theorem State.pop16_ST : (s.pop16).ST = s.ST := rfl
@[simp] theorem State.pop16_tone : (s.pop16).tone = s.tone := rfl
@[simp] theorem State.pop16_mode : (s.pop16).mode = s.mode := rfl
@[simp] theorem State.pop16_mem : (s.pop16).mem = s.mem := rfl
@[simp] theorem State.pop16_fb : (s.pop16).fb = s.fb := rfl
@[simp] theorem State.pop16_par : (s.pop16).par = s.par := rfl
@[simp] theorem State.pop16_inp : (s.pop16).inp = s.inp := rfl
@[simp] theorem State.pop16_requests : (s.pop16).requests = s.requests := rfl
@[simp] theorem State.pop16_draws : (s.pop16).draws = s.draws := rfl
@[simp] theorem State.pop16_trace : (s.pop16).trace = s.trace := rfl
@[simp] theorem State.pop16_getV (z : Reg) : (s.pop16).getV z = s.getV z := rfl
@[simp] theorem State.pop16_memRead (a' : Addr) : (s.pop16).memRead a' = s.memRead a' := rfl
@[simp] theorem State.pop16_effAddr (k : Nat) : (s.pop16).effAddr k = s.effAddr k := rfl
@[simp] theorem State.pop16_keyIn : (s.pop16).keyIn = s.keyIn := rfl
@[simp] theorem State.pop16_randIn : (s.pop16).randIn = s.randIn := rfl

/-! ### `State.timerPhase` -/

@[simp] theorem State.timerPhase_V (b : Bool) : (s.timerPhase b).V = s.V := rfl
@[simp] theorem State.timerPhase_I (b : Bool) : (s.timerPhase b).I = s.I := rfl
@[simp] theorem State.timerPhase_pc (b : Bool) : (s.timerPhase b).pc = s.pc := rfl
@[simp] theorem State.timerPhase_sp (b : Bool) : (s.timerPhase b).sp = s.sp := rfl
@[simp] theorem State.timerPhase_DT (b : Bool) : (s.timerPhase b).DT = if b && s.DT != 0 then s.DT - 1 else s.DT := rfl
@[simp] theorem State.timerPhase_ST (b : Bool) : (s.timerPhase b).ST = if b && s.ST != 0 then s.ST - 1 else s.ST := rfl
@[simp] theorem State.timerPhase_tone (b : Bool) : (s.timerPhase b).tone = if b then s.ST != 0 else s.tone := rfl
@[simp] theorem State.timerPhase_mode (b : Bool) : (s.timerPhase b).mode = s.mode := rfl
@[simp] theorem State.timerPhase_mem (b : Bool) : (s.timerPhase b).mem = s.mem := rfl
@[simp] theorem State.timerPhase_fb (b : Bool) : (s.timerPhase b).fb = s.fb := rfl
@[simp] theorem State.timerPhase_par (b : Bool) : (s.timerPhase b).par = s.par := rfl
@[simp] theorem State.timerPhase_inp (b : Bool) : (s.timerPhase b).inp = s.inp := rfl
@[simp] theorem State.timerPhase_requests (b : Bool) : (s.timerPhase b).requests = s.requests := rfl
@[simp] theorem State.timerPhase_draws (b : Bool) : (s.timerPhase b).draws = s.draws := rfl
@[simp] theorem State.timerPhase_trace (b : Bool) : (s.timerPhase b).trace = if b then s.trace ++ [.toneSet (s.ST != 0)] else s.trace := rfl
@[simp] theorem State.timerPhase_getV (b : Bool) (z : Reg) : (s.timerPhase b).getV z = s.getV z := rfl
@[simp] theorem State.timerPhase_memRead (b : Bool) (a' : Addr) : (s.timerPhase b).memRead a' = s.memRead a' := rfl
@[simp] theorem State.timerPhase_effAddr (b : Bool) (k : Nat) : (s.timerPhase b).effAddr k = s.effAddr k := rfl
@[simp] theorem State.timerPhase_keyIn (b : Bool) : (s.timerPhase b).keyIn = s.keyIn := rfl
@[simp] theorem State.timerPhase_randIn (b : Bool) : (s.timerPhase b).randIn = s.randIn := rfl

/-! ### `State.coreReset` -/

@[simp] theorem State.coreReset_V : (s.coreReset).V = Vector.replicate 16 0 := rfl
@[simp] theorem State.coreReset_I : (s.coreReset).I = 0 := rfl
@[simp] theorem State.coreReset_pc : (s.coreReset).pc = Config.resetPc := rfl
@[simp] theorem State.coreReset_sp : (s.coreReset).sp = s.par.stackBase := rfl
@[simp] theorem State.coreReset_DT : (s.coreReset).DT = 0 := rfl
@[simp] theorem State.coreReset_ST : (s.coreReset).ST = 0 := rfl
@[simp] theorem State.coreReset_tone : (s.coreReset).tone = false := rfl
@[simp] theorem State.coreReset_mode : (s.coreReset).mode = .run := rfl
@[simp] theorem State.coreReset_mem : (s.coreReset).mem = s.mem := rfl
@[simp] theorem State.coreReset_fb : (s.coreReset).fb = s.fb := rfl
@[simp] theorem State.coreReset_par : (s.coreReset).par = s.par := rfl
@[simp] theorem State.coreReset_inp : (s.coreReset).inp = s.inp := rfl
@[simp] theorem State.coreReset_requests : (s.coreReset).requests = s.requests := rfl
@[simp] theorem State.coreReset_draws : (s.coreReset).draws = s.draws := rfl
@[simp] theorem State.coreReset_trace : (s.coreReset).trace = s.trace := rfl
@[simp] theorem State.coreReset_memRead (a' : Addr) : (s.coreReset).memRead a' = s.memRead a' := rfl
@[simp] theorem State.coreReset_keyIn : (s.coreReset).keyIn = s.keyIn := rfl
@[simp] theorem State.coreReset_randIn : (s.coreReset).randIn = s.randIn := rfl

/-! ### `State.takeRequest` -/

@[simp] theorem State.takeRequest_V : s.takeRequest.V = s.V := by
  unfold State.takeRequest; split <;> rfl
@[simp] theorem State.takeRequest_I : s.takeRequest.I = s.I := by
  unfold State.takeRequest; split <;> rfl
@[simp] theorem State.takeRequest_pc : s.takeRequest.pc = s.pc := by
  unfold State.takeRequest; split <;> rfl
@[simp] theorem State.takeRequest_sp : s.takeRequest.sp = s.sp := by
  unfold State.takeRequest; split <;> rfl
@[simp] theorem State.takeRequest_DT : s.takeRequest.DT = s.DT := by
  unfold State.takeRequest; split <;> rfl
@[simp] theorem State.takeRequest_ST : s.takeRequest.ST = s.ST := by
  unfold State.takeRequest; split <;> rfl
@[simp] theorem State.takeRequest_tone : s.takeRequest.tone = s.tone := by
  unfold State.takeRequest; split <;> rfl
@[simp] theorem State.takeRequest_mode : s.takeRequest.mode = s.mode := by
  unfold State.takeRequest; split <;> rfl
@[simp] theorem State.takeRequest_mem : s.takeRequest.mem = s.mem := by
  unfold State.takeRequest; split <;> rfl
@[simp] theorem State.takeRequest_fb : s.takeRequest.fb = s.fb := by
  unfold State.takeRequest; split <;> rfl
@[simp] theorem State.takeRequest_par : s.takeRequest.par = s.par := by
  unfold State.takeRequest; split <;> rfl
@[simp] theorem State.takeRequest_inp : s.takeRequest.inp = s.inp := by
  unfold State.takeRequest; split <;> rfl
@[simp] theorem State.takeRequest_trace : s.takeRequest.trace = s.trace := by
  unfold State.takeRequest; split <;> rfl
@[simp] theorem State.takeRequest_getV (z : Reg) : s.takeRequest.getV z = s.getV z := by
  unfold State.takeRequest; split <;> rfl
@[simp] theorem State.takeRequest_memRead (a' : Addr) : s.takeRequest.memRead a' = s.memRead a' := by
  unfold State.takeRequest; split <;> rfl
@[simp] theorem State.takeRequest_effAddr (k : Nat) : s.takeRequest.effAddr k = s.effAddr k := by
  unfold State.takeRequest; split <;> rfl
@[simp] theorem State.takeRequest_keyIn : s.takeRequest.keyIn = s.keyIn := by
  unfold State.takeRequest; split <;> rfl
@[simp] theorem State.takeRequest_randIn : s.takeRequest.randIn = s.randIn := by
  unfold State.takeRequest; split <;> rfl

theorem State.nextRequest_nil (h : s.requests = []) : s.nextRequest = .cycle s.freeInput := by
  simp [State.nextRequest, h]

theorem State.nextRequest_cons {r : Request} {rs : List Request} (h : s.requests = r :: rs) :
    s.nextRequest = r := by
  simp [State.nextRequest, h]

/-! ### `State.pollKey` -/

@[simp] theorem State.pollKey_I (x : Reg) : (s.pollKey x).I = s.I := by
  unfold State.pollKey; split <;> rfl
@[simp] theorem State.pollKey_pc (x : Reg) : (s.pollKey x).pc = s.pc := by
  unfold State.pollKey; split <;> rfl
@[simp] theorem State.pollKey_sp (x : Reg) : (s.pollKey x).sp = s.sp := by
  unfold State.pollKey; split <;> rfl
@[simp] theorem State.pollKey_DT (x : Reg) : (s.pollKey x).DT = s.DT := by
  unfold State.pollKey; split <;> rfl
@[simp] theorem State.pollKey_ST (x : Reg) : (s.pollKey x).ST = s.ST := by
  unfold State.pollKey; split <;> rfl
@[simp] theorem State.pollKey_tone (x : Reg) : (s.pollKey x).tone = s.tone := by
  unfold State.pollKey; split <;> rfl
@[simp] theorem State.pollKey_mem (x : Reg) : (s.pollKey x).mem = s.mem := by
  unfold State.pollKey; split <;> rfl
@[simp] theorem State.pollKey_fb (x : Reg) : (s.pollKey x).fb = s.fb := by
  unfold State.pollKey; split <;> rfl
@[simp] theorem State.pollKey_par (x : Reg) : (s.pollKey x).par = s.par := by
  unfold State.pollKey; split <;> rfl
@[simp] theorem State.pollKey_inp (x : Reg) : (s.pollKey x).inp = s.inp := by
  unfold State.pollKey; split <;> rfl
@[simp] theorem State.pollKey_requests (x : Reg) : (s.pollKey x).requests = s.requests := by
  unfold State.pollKey; split <;> rfl
@[simp] theorem State.pollKey_draws (x : Reg) : (s.pollKey x).draws = s.draws := by
  unfold State.pollKey; split <;> rfl
@[simp] theorem State.pollKey_trace (x : Reg) : (s.pollKey x).trace = s.trace := by
  unfold State.pollKey; split <;> rfl

theorem State.pollKey_none {x : Reg} (h : s.inp.key = none) : s.pollKey x = s := by
  simp [State.pollKey, h]

theorem State.pollKey_some {x : Reg} {k : Nibble} (h : s.inp.key = some k) :
    s.pollKey x = (s.setV x (k.setWidth 8)).setMode .run := by
  simp [State.pollKey, h]

/-! ### The readers -/

theorem State.fetchWord_congr {s t : State} (hm : t.mem = s.mem) (hp : t.pc = s.pc) :
    t.fetchWord = s.fetchWord := by
  simp [State.fetchWord, State.memRead, hm, hp]

@[simp] theorem State.takeRequest_fetchWord : s.takeRequest.fetchWord = s.fetchWord :=
  State.fetchWord_congr (by simp) (by simp)

@[simp] theorem State.latch_fetchWord (c : CycleInput) : (s.latch c).fetchWord = s.fetchWord := rfl

end Sys2Proof.Machine
end

