-- ==== Sys2Proof/Laws/Memory.lean ====
section
/-! SUPPORT. Memory: a read after a write, other addresses unchanged, and the canonical form, which every operation
keeps. -/

namespace Sys2Proof.Machine

theorem Memory.lookup_insert {m : Memory} {a : Nat} (v : Byte) (h : ∀ c ∈ m, c.1 ≠ a) (b : Nat) :
    (Memory.insert m a v).lookup b = if b = a then v else m.lookup b := by
  induction m with
  | nil => by_cases e : b = a <;> simp [Memory.insert, Memory.lookup, e, Ne.symm]
  | cons c rest ih =>
    have hc : c.1 ≠ a := h c (by simp)
    have ih' := ih fun d hd => h d (by simp [hd])
    by_cases hlt : a < c.1
    · by_cases e : b = a
      · simp [Memory.insert, Memory.lookup, hlt, e]
      · simp [Memory.insert, Memory.lookup, hlt, e, Ne.symm e]
    · simp only [Memory.insert, hlt, if_false, Memory.lookup]
      by_cases e : c.1 = b
      · have : b ≠ a := fun h' => hc (e.trans h')
        simp [e, this]
      · simp [e, ih']

theorem Memory.lookup_others (m : Memory) {a b : Nat} (h : b ≠ a) :
    Memory.lookup (m.filter fun c => c.1 != a) b = m.lookup b := by
  induction m with
  | nil => rfl
  | cons c rest ih =>
    by_cases e : c.1 = a
    · have : a ≠ b := Ne.symm h
      simp [Memory.lookup, e, ih, this]
    · simp [Memory.lookup, e, ih]

theorem Memory.lookup_unlisted {m : Memory} {a : Nat} (h : ∀ c ∈ m, c.1 ≠ a) :
    m.lookup a = Memory.unlisted a := by
  induction m with
  | nil => rfl
  | cons c rest ih =>
    have hc : c.1 ≠ a := h c (by simp)
    simp [Memory.lookup, hc, ih fun d hd => h d (by simp [hd])]

theorem Memory.others_ne (m : Memory) (a : Nat) : ∀ c ∈ m.filter (fun c => c.1 != a), c.1 ≠ a := by
  intro c hc
  simpa using (List.mem_filter.mp hc).2

/-- A read of the array after a write of it, in any memory. -/
theorem Memory.lookup_store (m : Memory) (a b : Nat) (v : Byte) :
    (Memory.store m a v).lookup b = if b = a then v else m.lookup b := by
  unfold Memory.store
  by_cases hv : v = Memory.unlisted a
  · by_cases e : b = a
    · subst e
      simp [hv, Memory.lookup_unlisted (Memory.others_ne m _)]
    · simp [hv, e, Memory.lookup_others m e]
  · by_cases e : b = a
    · simp [hv, e, Memory.lookup_insert v (Memory.others_ne m a)]
    · simp [hv, e, Memory.lookup_insert v (Memory.others_ne m a), Memory.lookup_others m e]

/-- `MemRead` after `MemWrite` (R51, R52, R60): the byte written where the address is in memory, else as before. -/
theorem Memory.read_write (m : Memory) (a b : Addr) (v : Byte) :
    (m.write a v).read b = if b = a ∧ a.toNat < Config.memSize then v else m.read b := by
  unfold Memory.write Memory.read
  by_cases ha : a.toNat < Config.memSize
  · by_cases hb : b.toNat < Config.memSize
    · by_cases e : b = a
      · subst e; simp [hb, Memory.lookup_store]
      · have : b.toNat ≠ a.toNat := fun h => e (BitVec.eq_of_toNat_eq h)
        simp [ha, hb, Memory.lookup_store, e, this]
    · have : b ≠ a := fun h => hb (h ▸ ha)
      simp [hb, this]
  · simp [ha]

/-- A read outside memory is 0 (R51). -/
theorem Memory.read_outside (m : Memory) {a : Addr} (h : Config.memSize ≤ a.toNat) : m.read a = 0 := by
  simp [Memory.read, Nat.not_lt.mpr h]

/-- A write outside memory is dropped (R52). -/
theorem Memory.write_outside (m : Memory) {a : Addr} (v : Byte) (h : Config.memSize ≤ a.toNat) :
    m.write a v = m := by
  simp [Memory.write, Nat.not_lt.mpr h]

theorem State.memRead_memWrite (s : State) (a b : Addr) (v : Byte) :
    (s.memWrite a v).memRead b = if b = a ∧ a.toNat < Config.memSize then v else s.memRead b :=
  Memory.read_write s.mem a b v

theorem State.memRead_memWrite_ne (s : State) {a b : Addr} (v : Byte) (h : b ≠ a) :
    (s.memWrite a v).memRead b = s.memRead b := by
  simp [State.memRead_memWrite, h]

/-- Every byte of memory after a push (R64). -/
theorem State.memRead_push16 (s : State) (v b : Addr) :
    (s.push16 v).memRead b =
      if b = s.sp + 1 ∧ (s.sp + 1).toNat < Config.memSize then highByte v
      else if b = s.sp ∧ s.sp.toNat < Config.memSize then lowByte v
      else s.memRead b := by
  change ((s.memWrite s.sp (lowByte v)).memWrite (s.sp + 1) (highByte v)).memRead b = _
  simp [State.memRead_memWrite]

/-! ### The canonical form -/

theorem Memory.mem_insert {m : Memory} {a : Nat} {v : Byte} {c : Host.Cell} :
    c ∈ Memory.insert m a v ↔ c = (a, v) ∨ c ∈ m := by
  induction m with
  | nil => simp [Memory.insert]
  | cons d rest ih =>
    by_cases h : a < d.1
    · simp [Memory.insert, h]
    · simp only [Memory.insert, h, if_false, List.mem_cons, ih]
      tauto

theorem Memory.insert_sorted {m : Memory} {a : Nat} (v : Byte) (hne : ∀ c ∈ m, c.1 ≠ a)
    (hs : m.Pairwise fun c d => c.1 < d.1) : (Memory.insert m a v).Pairwise fun c d => c.1 < d.1 := by
  induction m with
  | nil => simp [Memory.insert]
  | cons c rest ih =>
    obtain ⟨hc, hr⟩ := List.pairwise_cons.mp hs
    have hca : c.1 ≠ a := hne c (by simp)
    by_cases h : a < c.1
    · simp only [Memory.insert, h, if_true]
      refine List.pairwise_cons.mpr ⟨fun d hd => ?_, hs⟩
      rcases List.mem_cons.mp hd with rfl | hd
      · exact h
      · exact h.trans (hc d hd)
    · simp only [Memory.insert, h, if_false]
      refine List.pairwise_cons.mpr ⟨fun d hd => ?_, ih (fun d hd => hne d (by simp [hd])) hr⟩
      rcases Memory.mem_insert.mp hd with rfl | hd
      · exact lt_of_le_of_ne (Nat.not_lt.mp h) hca
      · exact hc d hd

/-- A write of the array keeps the canonical form. -/
theorem Memory.store_wf {m : Memory} {a : Nat} (v : Byte) (ha : a < Config.memSize) (h : m.wf) :
    (Memory.store m a v).wf := by
  obtain ⟨hs, hc⟩ := h
  unfold Memory.store
  have hs' := hs.filter (fun c => c.1 != a)
  have hc' : ∀ c ∈ m.filter (fun c => c.1 != a), c.1 < Config.memSize ∧ c.2 ≠ Memory.unlisted c.1 :=
    fun c h => hc c (List.mem_filter.mp h).1
  by_cases hv : v = Memory.unlisted a
  · rw [if_pos hv]
    exact ⟨hs', hc'⟩
  · simp only [hv, if_false]
    refine ⟨Memory.insert_sorted v (Memory.others_ne m a) hs', fun c hcm => ?_⟩
    rcases Memory.mem_insert.mp hcm with rfl | hcm
    · exact ⟨ha, hv⟩
    · exact hc' c hcm

/-- `MemWrite` keeps the canonical form. -/
theorem Memory.write_wf {m : Memory} (a : Addr) (v : Byte) (h : m.wf) : (m.write a v).wf := by
  unfold Memory.write
  by_cases ha : a.toNat < Config.memSize
  · simpa [ha] using Memory.store_wf v ha h
  · simpa [ha] using h

/-- Placing bytes inside the array keeps the canonical form. -/
theorem Memory.place_wf {m : Memory} (a : Nat) (bs : List Byte) (ha : a + bs.length ≤ Config.memSize)
    (h : m.wf) : (Memory.place m a bs).wf := by
  induction bs generalizing m a with
  | nil => exact h
  | cons b rest ih =>
    simp only [List.length_cons] at ha
    exact ih (a + 1) (by omega) (Memory.store_wf b (by omega) h)

/-- A read of the array after bytes were placed in it. -/
theorem Memory.lookup_place (m : Memory) (a : Nat) (bs : List Byte) (b : Nat) :
    (Memory.place m a bs).lookup b =
      if a ≤ b ∧ b < a + bs.length then bs.getD (b - a) 0 else m.lookup b := by
  induction bs generalizing m a with
  | nil => simp [Memory.place]
  | cons c rest ih =>
    simp only [Memory.place, ih, Memory.lookup_store, List.length_cons]
    by_cases e : b = a
    · subst e; simp
    · by_cases h : a + 1 ≤ b ∧ b < a + 1 + rest.length
      · have h' : a ≤ b ∧ b < a + (rest.length + 1) := by omega
        have : b - a = (b - (a + 1)) + 1 := by omega
        rw [if_pos h, if_pos h', this, List.getD_cons_succ]
      · have h' : ¬(a ≤ b ∧ b < a + (rest.length + 1)) := by omega
        rw [if_neg h, if_neg h', if_neg e]

/-- Reset memory has the canonical form. -/
theorem State.reset_mem_wf : State.reset.mem.wf := by
  simp [State.reset, Memory.wf]

end Sys2Proof.Machine
end

