-- ==== Sys2Proof/Laws/Registers.lean ====
section
/-! SUPPORT. Registers: a read after a write, and what a flag write does. -/

namespace Sys2Proof.Machine

/-- A read of `V[y]` after `V[x] <- v`. -/
theorem State.getV_setV (s : State) (x y : Reg) (v : Byte) :
    (s.setV x v).getV y = if y = x then v else s.getV y := by
  unfold State.getV State.setV
  simp only [Vector.getElem_set]
  by_cases h : y = x
  · simp [h]
  · have : x.toNat ≠ y.toNat := fun e => h (BitVec.eq_of_toNat_eq e.symm)
    simp [h, this]

@[simp] theorem State.getV_setV_same (s : State) (x : Reg) (v : Byte) : (s.setV x v).getV x = v := by
  simp [State.getV_setV]

theorem State.getV_setV_ne (s : State) {x y : Reg} (v : Byte) (h : y ≠ x) :
    (s.setV x v).getV y = s.getV y := by
  simp [State.getV_setV, h]

/-- A read of `V[y]` after a flag write. -/
theorem State.getV_setFlag (s : State) (b : Bool) (y : Reg) :
    (s.setFlag b).getV y = if y = Config.flagReg then flagByte b else s.getV y :=
  State.getV_setV s _ _ _

/-- Two register files that read the same are the same. -/
theorem State.V_ext {s t : State} (h : ∀ x, s.getV x = t.getV x) : s.V = t.V := by
  apply Vector.ext
  intro k hk
  have := h (BitVec.ofNat 4 k)
  have e : (BitVec.ofNat 4 k).toNat = k := by simp; omega
  simpa [State.getV, e] using this

/-- Every register reads 0 after a reset (R230). -/
@[simp] theorem State.coreReset_getV (s : State) (x : Reg) : s.coreReset.getV x = 0 := by
  simp [State.getV]

end Sys2Proof.Machine
end

