-- ==== Sys2Proof/Laws/Blocks.lean ====
section
/-! SUPPORT. The register blocks of Fx55 and Fx65: what each does, said once. -/

namespace Sys2Proof.Machine

/-- A block store changes memory and nothing else. -/
theorem State.dumpBlock_frame (s : State) (B : Addr) (n : Nat) :
    s.dumpBlock B n = { s with mem := (s.dumpBlock B n).mem } := by
  induction n with
  | zero => rfl
  | succ k ih => rw [State.dumpBlock, ih]; rfl

@[simp] theorem State.dumpBlock_getV (s : State) (B : Addr) (n : Nat) (x : Reg) :
    (s.dumpBlock B n).getV x = s.getV x := by
  rw [State.dumpBlock_frame]; rfl

/-- Every byte of memory after a block store of `n` registers. -/
theorem State.memRead_dumpBlock (s : State) (B a : Addr) {n : Nat} (hn : n ≤ 16) :
    (s.dumpBlock B n).memRead a =
      if (a - B).toNat < n ∧ a.toNat < Config.memSize then s.getV (BitVec.ofNat 4 (a - B).toNat)
      else s.memRead a := by
  induction n with
  | zero => simp [State.dumpBlock]
  | succ k ih =>
    rw [State.dumpBlock, State.memRead_memWrite, ih (by omega), State.dumpBlock_getV]
    by_cases e : a = B + BitVec.ofNat 16 k
    · have ek : (a - B).toNat = k := by
        rw [e]; simp [BitVec.add_comm B]; omega
      by_cases hm : a.toNat < Config.memSize
      · have hm' : (B + BitVec.ofNat 16 k).toNat < Config.memSize := e ▸ hm
        rw [if_pos ⟨e, hm'⟩, if_pos ⟨by omega, hm⟩, ek]
      · have hm' : ¬(B + BitVec.ofNat 16 k).toNat < Config.memSize := e ▸ hm
        rw [if_neg (fun h => hm' h.2), if_neg (fun h => hm h.2), if_neg (fun h => hm h.2)]
    · have ek : (a - B).toNat ≠ k := by
        intro h
        apply e
        have : a - B = BitVec.ofNat 16 k := by
          apply BitVec.eq_of_toNat_eq; simp [h]; omega
        rw [← this]
        simp [BitVec.add_comm B]
      have hiff : (a - B).toNat < k + 1 ↔ (a - B).toNat < k := by omega
      rw [if_neg (fun h => e h.1)]
      simp only [hiff]

/-- A block load changes registers and nothing else. -/
theorem State.loadBlock_frame (s : State) (B : Addr) (n : Nat) :
    s.loadBlock B n = { s with V := (s.loadBlock B n).V } := by
  induction n with
  | zero => rfl
  | succ k ih => rw [State.loadBlock, ih]; rfl

@[simp] theorem State.loadBlock_memRead (s : State) (B : Addr) (n : Nat) (a : Addr) :
    (s.loadBlock B n).memRead a = s.memRead a := by
  rw [State.loadBlock_frame]; rfl

/-- Every register after a block load of `n` registers. -/
theorem State.getV_loadBlock (s : State) (B : Addr) (x : Reg) {n : Nat} (hn : n ≤ 16) :
    (s.loadBlock B n).getV x =
      if x.toNat < n then s.memRead (B + BitVec.ofNat 16 x.toNat) else s.getV x := by
  induction n with
  | zero => simp [State.loadBlock]
  | succ k ih =>
    rw [State.loadBlock, State.getV_setV, ih (by omega), State.loadBlock_memRead]
    by_cases e : x = BitVec.ofNat 4 k
    · have ek : x.toNat = k := by rw [e]; simp; omega
      rw [if_pos e, if_pos (by omega), ek]
    · have ek : x.toNat ≠ k := fun h => e (by apply BitVec.eq_of_toNat_eq; simp [h]; omega)
      have hiff : x.toNat < k + 1 ↔ x.toNat < k := by omega
      rw [if_neg e]
      simp only [hiff]

/-- A block store keeps memory's canonical form. -/
theorem State.dumpBlock_wf (s : State) (B : Addr) (n : Nat) (h : s.mem.wf) : (s.dumpBlock B n).mem.wf := by
  induction n with
  | zero => exact h
  | succ k ih => exact Memory.write_wf _ _ ih

end Sys2Proof.Machine
end

