-- ==== Sys2Proof/Laws/Decode.lean ====
section
/-! SUPPORT. Fields of a word and words of fields: each is the other's inverse, and masking acts digit by digit. -/

namespace Sys2Proof

section Fields
variable (c x y n : Nibble)

@[simp] theorem fieldC_wordOf : fieldC (wordOf c x y n) = c := by
  ext i hi
  simp only [fieldC, wordOf, BitVec.getElem_extractLsb', BitVec.getLsbD_append]
  have h1 : ¬ 12 + i < 4 := by omega
  have h2 : ¬ 12 + i - 4 < 4 := by omega
  have h3 : ¬ 12 + i - 4 - 4 < 4 := by omega
  have h4 : 12 + i - 4 - 4 - 4 = i := by omega
  simp [h1, h2, h3, h4, hi, BitVec.getLsbD_eq_getElem]

@[simp] theorem fieldX_wordOf : fieldX (wordOf c x y n) = x := by
  ext i hi
  simp only [fieldX, wordOf, BitVec.getElem_extractLsb', BitVec.getLsbD_append]
  have h1 : ¬ 8 + i < 4 := by omega
  have h2 : ¬ 8 + i - 4 < 4 := by omega
  have h3 : 8 + i - 4 - 4 < 4 := by omega
  have h4 : 8 + i - 4 - 4 = i := by omega
  simp [h1, h2, h4, hi, BitVec.getLsbD_eq_getElem]

@[simp] theorem fieldY_wordOf : fieldY (wordOf c x y n) = y := by
  ext i hi
  simp only [fieldY, wordOf, BitVec.getElem_extractLsb', BitVec.getLsbD_append]
  have h1 : ¬ 4 + i < 4 := by omega
  have h4 : 4 + i - 4 = i := by omega
  simp [h4, hi, BitVec.getLsbD_eq_getElem]

@[simp] theorem fieldN_wordOf : fieldN (wordOf c x y n) = n := by
  ext i hi
  simp only [fieldN, wordOf, BitVec.getElem_extractLsb', BitVec.getLsbD_append]
  simp [hi, BitVec.getLsbD_eq_getElem]

/-- A word is its four digits. -/
@[simp] theorem wordOf_fields (w : Word) : wordOf (fieldC w) (fieldX w) (fieldY w) (fieldN w) = w := by
  apply BitVec.eq_of_getLsbD_eq
  intro i hi
  simp only [fieldC, fieldX, fieldY, fieldN, wordOf, BitVec.getLsbD_append, BitVec.getLsbD_extractLsb']
  by_cases h1 : i < 4
  · simp [h1]
  · by_cases h2 : i - 4 < 4
    · have : 4 + (i - 4) = i := by omega
      simp [h1, h2, this]
    · by_cases h3 : i - 4 - 4 < 4
      · have : 8 + (i - 4 - 4) = i := by omega
        simp [h1, h2, h3, this]
      · have h4 : i - 4 - 4 - 4 < 4 := by omega
        have : 12 + (i - 4 - 4 - 4) = i := by omega
        simp [h1, h2, h3, h4, this]

/-- Two words with the same digits have the same digits. -/
theorem wordOf_inj {c x y n c' x' y' n' : Nibble} :
    wordOf c x y n = wordOf c' x' y' n' ↔ c = c' ∧ x = x' ∧ y = y' ∧ n = n' := by
  constructor
  · intro h
    refine ⟨?_, ?_, ?_, ?_⟩
    · simpa using congrArg fieldC h
    · simpa using congrArg fieldX h
    · simpa using congrArg fieldY h
    · simpa using congrArg fieldN h
  · rintro ⟨rfl, rfl, rfl, rfl⟩; rfl

/-- Masking acts digit by digit. -/
theorem wordOf_and (c x y n c' x' y' n' : Nibble) :
    wordOf c x y n &&& wordOf c' x' y' n' = wordOf (c &&& c') (x &&& x') (y &&& y') (n &&& n') := by
  apply BitVec.eq_of_getLsbD_eq
  intro i hi
  simp only [wordOf, BitVec.getLsbD_and, BitVec.getLsbD_append]
  split
  · rfl
  · split
    · rfl
    · split <;> rfl

/-- `kk` from its two digits. -/
@[simp] theorem kkOf_digits (kk : Byte) : kkOf (kk.extractLsb' 4 4) (kk.extractLsb' 0 4) = kk := by
  revert kk; decide

@[simp] theorem kkOf_high : (kkOf y n).extractLsb' 4 4 = y := by
  revert y n; decide

@[simp] theorem kkOf_low : (kkOf y n).extractLsb' 0 4 = n := by
  revert y n; decide

/-- `nnn` from its three digits. -/
@[simp] theorem nnnOf_digits (nnn : BitVec 12) :
    nnnOf (nnn.extractLsb' 8 4) (nnn.extractLsb' 4 4) (nnn.extractLsb' 0 4) = nnn := by
  apply BitVec.eq_of_getLsbD_eq
  intro i hi
  simp only [nnnOf, BitVec.getLsbD_append, BitVec.getLsbD_extractLsb']
  by_cases h1 : i < 4
  · simp [h1]
  · by_cases h2 : i - 4 < 4
    · have : 4 + (i - 4) = i := by omega
      simp [h1, h2, this]
    · have h4 : i - 4 - 4 < 4 := by omega
      have : 8 + (i - 4 - 4) = i := by omega
      simp [h1, h2, h4, this]

@[simp] theorem nnnOf_high : (nnnOf x y n).extractLsb' 8 4 = x := by
  ext i hi
  simp only [nnnOf, BitVec.getElem_extractLsb', BitVec.getLsbD_append]
  have h1 : ¬ 8 + i < 4 := by omega
  have h2 : ¬ 8 + i - 4 < 4 := by omega
  have h4 : 8 + i - 4 - 4 = i := by omega
  simp [h1, h2, h4, hi, BitVec.getLsbD_eq_getElem]

@[simp] theorem nnnOf_middle : (nnnOf x y n).extractLsb' 4 4 = y := by
  ext i hi
  simp only [nnnOf, BitVec.getElem_extractLsb', BitVec.getLsbD_append]
  have h4 : 4 + i - 4 = i := by omega
  simp [h4, hi, BitVec.getLsbD_eq_getElem]

@[simp] theorem nnnOf_low : (nnnOf x y n).extractLsb' 0 4 = n := by
  ext i hi
  simp only [nnnOf, BitVec.getElem_extractLsb', BitVec.getLsbD_append]
  simp [hi, BitVec.getLsbD_eq_getElem]

/-- The overlapping fields of R71. -/
theorem fieldKK_eq (w : Word) : fieldKK w = kkOf (fieldY w) (fieldN w) := by
  apply BitVec.eq_of_getLsbD_eq
  intro i hi
  simp only [fieldKK, fieldY, fieldN, kkOf, BitVec.getLsbD_append, BitVec.getLsbD_extractLsb']
  by_cases h1 : i < 4
  · simp [h1, hi]
  · have h2 : i - 4 < 4 := by omega
    have : 4 + (i - 4) = i := by omega
    simp [h1, h2, hi, this]

theorem fieldNNN_eq (w : Word) : fieldNNN w = nnnOf (fieldX w) (fieldY w) (fieldN w) := by
  apply BitVec.eq_of_getLsbD_eq
  intro i hi
  simp only [fieldNNN, fieldX, fieldY, fieldN, nnnOf, BitVec.getLsbD_append, BitVec.getLsbD_extractLsb']
  by_cases h1 : i < 4
  · simp [h1, hi]
  · by_cases h2 : i - 4 < 4
    · have : 4 + (i - 4) = i := by omega
      simp [h1, h2, hi, this]
    · have h4 : i - 4 - 4 < 4 := by omega
      have : 8 + (i - 4 - 4) = i := by omega
      simp [h1, h2, h4, hi, this]

end Fields

/-- The decoder on a word given by its digits. -/
@[simp] theorem decode_wordOf (c x y n : Nibble) : decode (wordOf c x y n) = decodeNibbles c x y n := by
  simp [decode]

/-- The bytes of a word, high byte first, make the word again (R54). -/
@[simp] theorem wordOfBytes_bytes (w : Word) : wordOfBytes (highByte w) (lowByte w) = w := by
  apply BitVec.eq_of_getLsbD_eq
  intro i hi
  simp only [wordOfBytes, highByte, lowByte, BitVec.getLsbD_append, BitVec.getLsbD_extractLsb']
  by_cases h1 : i < 8
  · simp [h1]
  · have h2 : i - 8 < 8 := by omega
    have : 8 + (i - 8) = i := by omega
    simp [h1, h2, this]

@[simp] theorem highByte_wordOfBytes (hi lo : Byte) : highByte (wordOfBytes hi lo) = hi := by
  ext i hi'
  simp only [highByte, wordOfBytes, BitVec.getElem_extractLsb', BitVec.getLsbD_append]
  have h1 : ¬ 8 + i < 8 := by omega
  have h2 : 8 + i - 8 = i := by omega
  simp [h2, hi', BitVec.getLsbD_eq_getElem]

@[simp] theorem lowByte_wordOfBytes (hi lo : Byte) : lowByte (wordOfBytes hi lo) = lo := by
  ext i hi'
  simp only [lowByte, wordOfBytes, BitVec.getElem_extractLsb', BitVec.getLsbD_append]
  simp [hi', BitVec.getLsbD_eq_getElem]

/-- The digits of a table entry: what the mask and the pattern of a row are, digit by digit. -/
theorem word_digits (a b c d : Nat) :
    wordOf (BitVec.ofNat 4 a) (BitVec.ofNat 4 b) (BitVec.ofNat 4 c) (BitVec.ofNat 4 d) =
      BitVec.ofNat 16 (a % 16 * 4096 + b % 16 * 256 + c % 16 * 16 + d % 16) := by
  apply BitVec.eq_of_toNat_eq
  have e := fun (p q : Nat) (h : q < 16) => (Nat.shiftLeft_add_eq_or_of_lt (a := p) (b := q) (i := 4) h).symm
  simp only [wordOf, BitVec.toNat_append, BitVec.toNat_ofNat, Nat.reducePow]
  rw [e _ _ (Nat.mod_lt _ (by decide)), e _ _ (Nat.mod_lt _ (by decide)), e _ _ (Nat.mod_lt _ (by decide))]
  simp only [Nat.shiftLeft_eq]
  omega

end Sys2Proof
end

