-- ==== Sys2Proof/Laws/Grid.lean ====
section
/-! SUPPORT. The grid: a pixel read after a pixel write, and what compositing a list of pixels does to every pixel. -/

namespace Sys2Proof.Machine

/-- The grid has a row `y` with a column `x`. -/
abbrev Grid.Has (g : Grid) (x y : Nat) : Prop := ∃ row, g[y]? = some row ∧ x < row.length

theorem Grid.wf_has {g : Grid} {p : Config.Params} (h : g.wf p) {x y : Nat} (hx : x < p.displayW)
    (hy : y < p.displayH) : g.Has x y := by
  obtain ⟨hl, hr⟩ := h
  have hy' : y < g.length := by omega
  exact ⟨g[y], by simp [hy'], by have := hr g[y] (List.getElem_mem hy'); omega⟩

/-- `FbGet` after `FbSet` of a pixel the grid has (R31). -/
theorem Grid.get_set {g : Grid} {x y : Nat} (b : Bool) (h : g.Has x y) (x' y' : Nat) :
    (g.set x y b).get x' y' = if x' = x ∧ y' = y then b else g.get x' y' := by
  obtain ⟨row, hrow, hx⟩ := h
  unfold Grid.get Grid.set
  simp only [List.getD_eq_getElem?_getD, List.getElem?_modify]
  by_cases ey : y' = y
  · subst ey
    by_cases ex : x' = x
    · subst ex; simp [hrow, hx]
    · have ex' : x ≠ x' := Ne.symm ex
      simp [hrow, ex, ex']
  · have ey' : y ≠ y' := Ne.symm ey
    simp [ey, ey']

/-- `FbSet` keeps the grid's size. -/
theorem Grid.set_wf {g : Grid} {p : Config.Params} (x y : Nat) (b : Bool) (h : g.wf p) : (g.set x y b).wf p := by
  obtain ⟨hl, hr⟩ := h
  refine ⟨by simpa [Grid.set] using hl, fun row hrow => ?_⟩
  obtain ⟨k, hk, rfl⟩ := List.mem_iff_getElem.mp hrow
  simp only [Grid.set, List.length_modify] at hk
  simp only [Grid.set, List.getElem_modify]
  split
  · simpa using hr _ (List.getElem_mem hk)
  · exact hr _ (List.getElem_mem hk)

@[simp] theorem Grid.get_blank (w h x y : Nat) : (Grid.blank w h).get x y = false := by
  unfold Grid.get Grid.blank
  simp only [List.getD_eq_getElem?_getD, List.getElem?_replicate]
  by_cases hy : y < h <;> by_cases hx : x < w <;> simp [hy, hx]

theorem Grid.blank_wf (p : Config.Params) : (Grid.blank p.displayW p.displayH).wf p := by
  refine ⟨by simp [Grid.blank], fun row hrow => ?_⟩
  have := (List.mem_replicate.mp hrow).2
  simp [this]

/-- Two grids of one size that read the same are the same. -/
theorem Grid.ext_get {g h : Grid} {p : Config.Params} (hg : g.wf p) (hh : h.wf p)
    (e : ∀ x y, x < p.displayW → y < p.displayH → g.get x y = h.get x y) : g = h := by
  apply List.ext_getElem (by rw [hg.1, hh.1])
  intro y hy hy'
  have lg := hg.2 _ (List.getElem_mem hy)
  have lh := hh.2 _ (List.getElem_mem hy')
  apply List.ext_getElem (by rw [lg, lh])
  intro x hx hx'
  have := e x y (by omega) (by have := hg.1; omega)
  simpa [Grid.get, List.getD_eq_getElem?_getD, hy, hy', hx, hx'] using this

/-! ### Compositing -/

/-- Folding the compositor keeps the grid's size. -/
theorem foldl_compositePixel_wf {p : Config.Params} (ps : List Pixel) (acc : Grid × Bool) (h : acc.1.wf p) :
    (ps.foldl compositePixel acc).1.wf p := by
  induction ps generalizing acc with
  | nil => exact h
  | cons q rest ih => exact ih _ (Grid.set_wf _ _ _ h)

/-- Compositing keeps the grid's size. -/
theorem composite_wf {g : Grid} {p : Config.Params} (ps : List Pixel) (h : g.wf p) : (composite g ps).1.wf p :=
  foldl_compositePixel_wf ps _ h

theorem foldl_compositePixel_get {p : Config.Params} (ps : List Pixel) (acc : Grid × Bool) (h : acc.1.wf p)
    (hin : ∀ q ∈ ps, q.x < p.displayW ∧ q.y < p.displayH) (x y : Nat) :
    (ps.foldl compositePixel acc).1.get x y = Bool.xor (acc.1.get x y) (flips ps x y) := by
  induction ps generalizing acc with
  | nil => simp [flips]
  | cons q rest ih =>
    have hq := hin q (by simp)
    rw [List.foldl_cons, ih _ (Grid.set_wf _ _ _ h) fun r hr => hin r (by simp [hr])]
    simp only [compositePixel, compose, flips]
    rw [Grid.get_set _ (Grid.wf_has h hq.1 hq.2)]
    by_cases e : x = q.x ∧ y = q.y
    · obtain ⟨rfl, rfl⟩ := e
      cases q.d <;> cases acc.1.get q.x q.y <;> simp
    · have e' : ¬(q.x = x ∧ q.y = y) := fun ⟨a, b⟩ => e ⟨a.symm, b.symm⟩
      simp [e, e']

/-- Every pixel after compositing is the pixel before, flipped once for each sprite bit of 1 that lands on it (R101,
R102). -/
theorem composite_get {g : Grid} {p : Config.Params} (ps : List Pixel) (h : g.wf p)
    (hin : ∀ q ∈ ps, q.x < p.displayW ∧ q.y < p.displayH) (x y : Nat) :
    (composite g ps).1.get x y = Bool.xor (g.get x y) (flips ps x y) :=
  foldl_compositePixel_get ps _ h hin x y

/-- The pixels of a sprite are pixels of the grid (R31: always in-range coordinates). -/
theorem State.spritePixels_in (s : State) (X Y : Nat) (B : Addr) (n : Nat) (h : s.par.Legal) :
    ∀ q ∈ s.spritePixels X Y B n, q.x < s.par.displayW ∧ q.y < s.par.displayH := by
  intro q hq
  simp only [State.spritePixels, rowPixels, List.mem_flatMap, List.mem_map, List.mem_range] at hq
  obtain ⟨row, -, j, -, rfl⟩ := hq
  exact ⟨Nat.mod_lt _ h.1, Nat.mod_lt _ h.2⟩

end Sys2Proof.Machine
end

