-- ==== Sys2Proof/Laws/PerInstr.lean ====
section
/-! SUPPORT. Statements about every instruction as syntax, one lemma per constructor. -/

/-- The word an instruction encodes to matches its row of R73's table: `(w AND mask) = match`. -/
def Sys2Proof.Laws.EncodeMatches.Statement (i : Sys2Proof.Instr) : Prop :=
  Sys2Proof.encode i &&& i.mnemonic.mask = i.mnemonic.pattern

namespace Sys2Proof.Laws.EncodeMatches

theorem mask_selector : (0xF000 : Word) = wordOf 0xF 0x0 0x0 0x0 := by decide
theorem mask_low_digit : (0xF00F : Word) = wordOf 0xF 0x0 0x0 0xF := by decide
theorem mask_low_byte : (0xF0FF : Word) = wordOf 0xF 0x0 0xF 0xF := by decide

theorem and_none (d : Nibble) : d &&& 0x0 = 0x0 := by simp

/-- A row that fixes the selector alone. -/
theorem selector_row (c x y n : Nibble) :
    wordOf c x y n &&& 0xF000 = wordOf c 0x0 0x0 0x0 := by
  rw [mask_selector, wordOf_and]
  refine wordOf_inj.mpr ⟨?_, and_none x, and_none y, and_none n⟩
  revert c; decide

/-- A row that fixes the selector and the last digit. -/
theorem low_digit_row (c x y n : Nibble) :
    wordOf c x y n &&& 0xF00F = wordOf c 0x0 0x0 n := by
  rw [mask_low_digit, wordOf_and]
  refine wordOf_inj.mpr ⟨?_, and_none x, and_none y, ?_⟩
  · revert c; decide
  · revert n; decide

/-- A row that fixes the selector and the low byte. -/
theorem low_byte_row (c x y n : Nibble) :
    wordOf c x y n &&& 0xF0FF = wordOf c 0x0 y n := by
  rw [mask_low_byte, wordOf_and]
  refine wordOf_inj.mpr ⟨?_, and_none x, ?_, ?_⟩
  · revert c; decide
  · revert y; decide
  · revert n; decide

end Sys2Proof.Laws.EncodeMatches

namespace Sys2Proof

theorem Laws.EncodeMatches.clearDisplay : Laws.EncodeMatches.Statement .clearDisplay := by
  unfold Laws.EncodeMatches.Statement; decide

theorem Laws.EncodeMatches.ret : Laws.EncodeMatches.Statement .ret := by
  unfold Laws.EncodeMatches.Statement; decide

theorem Laws.EncodeMatches.jump (nnn : BitVec 12) : Laws.EncodeMatches.Statement (.jump nnn) := 
  (Laws.EncodeMatches.selector_row _ _ _ _).trans (show _ = Mnemonic.pattern .jump by decide)

theorem Laws.EncodeMatches.call (nnn : BitVec 12) : Laws.EncodeMatches.Statement (.call nnn) := 
  (Laws.EncodeMatches.selector_row _ _ _ _).trans (show _ = Mnemonic.pattern .call by decide)

theorem Laws.EncodeMatches.skipEqImm (x : Reg) (kk : Byte) : Laws.EncodeMatches.Statement (.skipEqImm x kk) := 
  (Laws.EncodeMatches.selector_row _ _ _ _).trans (show _ = Mnemonic.pattern .skipEqImm by decide)

theorem Laws.EncodeMatches.skipNeImm (x : Reg) (kk : Byte) : Laws.EncodeMatches.Statement (.skipNeImm x kk) := 
  (Laws.EncodeMatches.selector_row _ _ _ _).trans (show _ = Mnemonic.pattern .skipNeImm by decide)

theorem Laws.EncodeMatches.skipEqReg (x y : Reg) : Laws.EncodeMatches.Statement (.skipEqReg x y) := 
  (Laws.EncodeMatches.low_digit_row _ _ _ _).trans (show _ = Mnemonic.pattern .skipEqReg by decide)

theorem Laws.EncodeMatches.loadImm (x : Reg) (kk : Byte) : Laws.EncodeMatches.Statement (.loadImm x kk) := 
  (Laws.EncodeMatches.selector_row _ _ _ _).trans (show _ = Mnemonic.pattern .loadImm by decide)

theorem Laws.EncodeMatches.addImm (x : Reg) (kk : Byte) : Laws.EncodeMatches.Statement (.addImm x kk) := 
  (Laws.EncodeMatches.selector_row _ _ _ _).trans (show _ = Mnemonic.pattern .addImm by decide)

theorem Laws.EncodeMatches.move (x y : Reg) : Laws.EncodeMatches.Statement (.move x y) := 
  (Laws.EncodeMatches.low_digit_row _ _ _ _).trans (show _ = Mnemonic.pattern .move by decide)

theorem Laws.EncodeMatches.orReg (x y : Reg) : Laws.EncodeMatches.Statement (.orReg x y) := 
  (Laws.EncodeMatches.low_digit_row _ _ _ _).trans (show _ = Mnemonic.pattern .orReg by decide)

theorem Laws.EncodeMatches.andReg (x y : Reg) : Laws.EncodeMatches.Statement (.andReg x y) := 
  (Laws.EncodeMatches.low_digit_row _ _ _ _).trans (show _ = Mnemonic.pattern .andReg by decide)

theorem Laws.EncodeMatches.xorReg (x y : Reg) : Laws.EncodeMatches.Statement (.xorReg x y) := 
  (Laws.EncodeMatches.low_digit_row _ _ _ _).trans (show _ = Mnemonic.pattern .xorReg by decide)

theorem Laws.EncodeMatches.addCarry (x y : Reg) : Laws.EncodeMatches.Statement (.addCarry x y) := 
  (Laws.EncodeMatches.low_digit_row _ _ _ _).trans (show _ = Mnemonic.pattern .addCarry by decide)

theorem Laws.EncodeMatches.sub (x y : Reg) : Laws.EncodeMatches.Statement (.sub x y) := 
  (Laws.EncodeMatches.low_digit_row _ _ _ _).trans (show _ = Mnemonic.pattern .sub by decide)

theorem Laws.EncodeMatches.shiftRight (x y : Reg) : Laws.EncodeMatches.Statement (.shiftRight x y) := 
  (Laws.EncodeMatches.low_digit_row _ _ _ _).trans (show _ = Mnemonic.pattern .shiftRight by decide)

theorem Laws.EncodeMatches.subReversed (x y : Reg) : Laws.EncodeMatches.Statement (.subReversed x y) := 
  (Laws.EncodeMatches.low_digit_row _ _ _ _).trans (show _ = Mnemonic.pattern .subReversed by decide)

theorem Laws.EncodeMatches.shiftLeft (x y : Reg) : Laws.EncodeMatches.Statement (.shiftLeft x y) := 
  (Laws.EncodeMatches.low_digit_row _ _ _ _).trans (show _ = Mnemonic.pattern .shiftLeft by decide)

theorem Laws.EncodeMatches.skipNeReg (x y : Reg) : Laws.EncodeMatches.Statement (.skipNeReg x y) := 
  (Laws.EncodeMatches.low_digit_row _ _ _ _).trans (show _ = Mnemonic.pattern .skipNeReg by decide)

theorem Laws.EncodeMatches.loadIndex (nnn : BitVec 12) : Laws.EncodeMatches.Statement (.loadIndex nnn) := 
  (Laws.EncodeMatches.selector_row _ _ _ _).trans (show _ = Mnemonic.pattern .loadIndex by decide)

theorem Laws.EncodeMatches.jumpV0 (nnn : BitVec 12) : Laws.EncodeMatches.Statement (.jumpV0 nnn) := 
  (Laws.EncodeMatches.selector_row _ _ _ _).trans (show _ = Mnemonic.pattern .jumpV0 by decide)

theorem Laws.EncodeMatches.random (x : Reg) (kk : Byte) : Laws.EncodeMatches.Statement (.random x kk) := 
  (Laws.EncodeMatches.selector_row _ _ _ _).trans (show _ = Mnemonic.pattern .random by decide)

theorem Laws.EncodeMatches.draw (x y : Reg) (n : Nibble) : Laws.EncodeMatches.Statement (.draw x y n) := 
  (Laws.EncodeMatches.selector_row _ _ _ _).trans (show _ = Mnemonic.pattern .draw by decide)

theorem Laws.EncodeMatches.skipIfKey (x : Reg) : Laws.EncodeMatches.Statement (.skipIfKey x) := 
  (Laws.EncodeMatches.low_byte_row _ _ _ _).trans (show _ = Mnemonic.pattern .skipIfKey by decide)

theorem Laws.EncodeMatches.skipIfNotKey (x : Reg) : Laws.EncodeMatches.Statement (.skipIfNotKey x) := 
  (Laws.EncodeMatches.low_byte_row _ _ _ _).trans (show _ = Mnemonic.pattern .skipIfNotKey by decide)

theorem Laws.EncodeMatches.readDelay (x : Reg) : Laws.EncodeMatches.Statement (.readDelay x) := 
  (Laws.EncodeMatches.low_byte_row _ _ _ _).trans (show _ = Mnemonic.pattern .readDelay by decide)

theorem Laws.EncodeMatches.waitKey (x : Reg) : Laws.EncodeMatches.Statement (.waitKey x) := 
  (Laws.EncodeMatches.low_byte_row _ _ _ _).trans (show _ = Mnemonic.pattern .waitKey by decide)

theorem Laws.EncodeMatches.writeDelay (x : Reg) : Laws.EncodeMatches.Statement (.writeDelay x) := 
  (Laws.EncodeMatches.low_byte_row _ _ _ _).trans (show _ = Mnemonic.pattern .writeDelay by decide)

theorem Laws.EncodeMatches.writeSound (x : Reg) : Laws.EncodeMatches.Statement (.writeSound x) := 
  (Laws.EncodeMatches.low_byte_row _ _ _ _).trans (show _ = Mnemonic.pattern .writeSound by decide)

theorem Laws.EncodeMatches.addIndex (x : Reg) : Laws.EncodeMatches.Statement (.addIndex x) := 
  (Laws.EncodeMatches.low_byte_row _ _ _ _).trans (show _ = Mnemonic.pattern .addIndex by decide)

theorem Laws.EncodeMatches.fontAddress (x : Reg) : Laws.EncodeMatches.Statement (.fontAddress x) := 
  (Laws.EncodeMatches.low_byte_row _ _ _ _).trans (show _ = Mnemonic.pattern .fontAddress by decide)

theorem Laws.EncodeMatches.bcd (x : Reg) : Laws.EncodeMatches.Statement (.bcd x) := 
  (Laws.EncodeMatches.low_byte_row _ _ _ _).trans (show _ = Mnemonic.pattern .bcd by decide)

theorem Laws.EncodeMatches.dump (x : Reg) : Laws.EncodeMatches.Statement (.dump x) := 
  (Laws.EncodeMatches.low_byte_row _ _ _ _).trans (show _ = Mnemonic.pattern .dump by decide)

theorem Laws.EncodeMatches.load (x : Reg) : Laws.EncodeMatches.Statement (.load x) := 
  (Laws.EncodeMatches.low_byte_row _ _ _ _).trans (show _ = Mnemonic.pattern .load by decide)

end Sys2Proof
end

