-- ==== Sys2Proof/Laws/Step.lean ====
section
/-! SUPPORT. Everything a step can do, said once. -/

namespace Sys2Proof.Machine

/-- The state a cycle with inputs `inp` works on: the request taken and the inputs sampled. -/
abbrev State.sampled (s : State) (inp : CycleInput) : State := s.takeRequest.latch inp

/-- If a step answers `t`, it ran a decoded instruction, passed an unmatched word, polled for a key, serviced the
timers or reset the core; each case says what `t` is (R75, R74, R175, R207, R230). -/
theorem step_next_cases {s t : State} (h : step s = .next t) :
    (∃ inp i u, s.nextRequest = .cycle inp ∧ s.mode = .run ∧ decode s.fetchWord = .instr i ∧
      exec i (s.sampled inp).advance = .next u ∧ t = u.timerPhase inp.tick) ∨
    (∃ inp c, s.nextRequest = .cycle inp ∧ s.mode = .run ∧ decode s.fetchWord = .unmatched c ∧
      t = (s.sampled inp).advance.timerPhase inp.tick) ∨
    (∃ inp x, s.nextRequest = .cycle inp ∧ s.mode = .waitKey x ∧
      t = ((s.sampled inp).pollKey x).timerPhase inp.tick) ∨
    (∃ tick, s.nextRequest = .service tick ∧ t = s.takeRequest.timerPhase tick) ∨
    (∃ c, s.nextRequest = .reset c ∧ t = s.takeRequest.coreReset) := by
  unfold step transition at h
  cases hr : s.nextRequest with
  | cycle inp =>
    simp only [hr] at h
    unfold cycle at h
    cases hm : s.mode with
    | run =>
      simp only [State.latch_mode, State.takeRequest_mode, hm] at h
      unfold runCycle execWord at h
      simp only [State.latch_fetchWord, State.takeRequest_fetchWord, State.latch_inp] at h
      cases hd : decode s.fetchWord with
      | instr i =>
        simp only [hd] at h
        cases he : exec i (s.sampled inp).advance with
        | next u =>
          simp only [he, thenTimerPhase] at h
          exact .inl ⟨inp, i, u, rfl, rfl, rfl, he, (Host.Outcome.next.inj h).symm⟩
        | fault f => cases f
        | refused r => simp [he, thenTimerPhase] at h
      | unmatched c =>
        simp only [hd, thenTimerPhase] at h
        exact .inr (.inl ⟨inp, c, rfl, rfl, rfl, (Host.Outcome.next.inj h).symm⟩)
    | waitKey x =>
      simp only [State.latch_mode, State.takeRequest_mode, hm] at h
      exact .inr (.inr (.inl ⟨inp, x, rfl, rfl, (Host.Outcome.next.inj h).symm⟩))
  | service tick =>
    simp only [hr] at h
    exact .inr (.inr (.inr (.inl ⟨tick, rfl, (Host.Outcome.next.inj h).symm⟩)))
  | reset c =>
    simp only [hr] at h
    exact .inr (.inr (.inr (.inr ⟨c, rfl, (Host.Outcome.next.inj h).symm⟩)))

/-- A cycle asked for is the cycle on the sampled inputs. -/
theorem step_cycle {s : State} {inp : CycleInput} (hr : s.nextRequest = .cycle inp) :
    step s = cycle (s.sampled inp) := by
  simp [step, transition, hr]

/-- A run cycle whose word decodes and whose instruction answers `u` ends with the timer phase on `u` (R75). -/
theorem step_next_of_exec {s u : State} {inp : CycleInput} {i : Instr} (hm : s.mode = .run)
    (hr : s.nextRequest = .cycle inp) (hd : decode s.fetchWord = .instr i)
    (he : exec i (s.sampled inp).advance = .next u) : step s = .next (u.timerPhase inp.tick) := by
  rw [step_cycle hr]
  simp [cycle, hm, runCycle, execWord, hd, he, thenTimerPhase]

/-- A run cycle on an unmatched word ends with the timer phase on the advanced state (R74). -/
theorem step_next_of_unmatched {s : State} {inp : CycleInput} {c : Nibble} (hm : s.mode = .run)
    (hr : s.nextRequest = .cycle inp) (hd : decode s.fetchWord = .unmatched c) :
    step s = .next ((s.sampled inp).advance.timerPhase inp.tick) := by
  rw [step_cycle hr]
  simp [cycle, hm, runCycle, execWord, hd, thenTimerPhase]

/-- A wait cycle ends with the timer phase on the polled state (R175). -/
theorem step_next_of_wait {s : State} {inp : CycleInput} {x : Reg} (hm : s.mode = .waitKey x)
    (hr : s.nextRequest = .cycle inp) :
    step s = .next (((s.sampled inp).pollKey x).timerPhase inp.tick) := by
  rw [step_cycle hr]
  simp [cycle, hm, waitCycle]

end Sys2Proof.Machine
end

