-- ==== Sys2Proof/Laws/Values.lean ====
section
/-! SUPPORT. Values as numbers: digits, flags, addresses and counters. -/

namespace Sys2Proof.Machine

/-- A nibble is one of sixteen digits. -/
theorem nibble_cases (c : Nibble) :
    c = 0 ∨ c = 1 ∨ c = 2 ∨ c = 3 ∨ c = 4 ∨ c = 5 ∨ c = 6 ∨ c = 7 ∨
    c = 8 ∨ c = 9 ∨ c = 10 ∨ c = 11 ∨ c = 12 ∨ c = 13 ∨ c = 14 ∨ c = 15 := by
  revert c; decide

/-- A flag is 1 or 0 in its register (R130). -/
theorem flagByte_toNat (b : Bool) : (flagByte b).toNat = if b then 1 else 0 := by cases b <;> rfl

theorem flagByte_eq_one (b : Bool) : flagByte b = 1 ↔ b = true := by cases b <;> decide

/-- The bit 8xy6 shifts out (R139). -/
theorem shiftRightFlag_toNat (b : Byte) : (flagByte (shiftRightFlag b)).toNat = b.toNat % 2 := by
  revert b; decide

/-- The bit 8xyE shifts out (R141). -/
theorem shiftLeftFlag_toNat (b : Byte) : (flagByte (shiftLeftFlag b)).toNat = b.toNat / 128 := by
  revert b; decide

theorem zextNNN_toNat (nnn : BitVec 12) : (zextNNN nnn).toNat = nnn.toNat := by
  have := nnn.isLt
  simp [zextNNN]; omega

theorem State.effAddr_zero (s : State) : s.effAddr 0 = s.I := by simp [State.effAddr]

/-- The offset of byte `k` of a block is `k` (R150). -/
theorem State.effAddr_sub (s : State) {k : Nat} (h : k < 65536) : (s.effAddr k - s.I).toNat = k := by
  simp [State.effAddr, BitVec.add_comm s.I]; omega

/-- Two bytes big-endian, as a number (R54). -/
theorem wordOfBytes_toNat (hi lo : Byte) : (wordOfBytes hi lo).toNat = hi.toNat * 256 + lo.toNat := by
  rw [wordOfBytes, BitVec.toNat_append, ← Nat.shiftLeft_add_eq_or_of_lt lo.isLt, Nat.shiftLeft_eq]

/-- A counter that stops at 0 (R205). -/
theorem countdown_toNat (v : Byte) : (if v != 0 then v - 1 else v).toNat = v.toNat - 1 := by
  revert v; decide

theorem bne_zero (v : Byte) : (v != 0) = decide (0 < v.toNat) := by revert v; decide

end Sys2Proof.Machine
end

