-- ==== Sys2Proof/Tests/Slice0.lean ====
section
/-! SUPPORT. Tests of one step each, from the spec's worked examples and vectors (95_test_vectors.md: E<n>, V<n>) and
its opcode table (30_encoding.md R73), and for each obligation with premises a witness that meets them all. -/

namespace Sys2Proof.Tests

-- One declaration after another: the check of the joined package bounds the stacks of its threads.
set_option Elab.async false

open Sys2Proof Sys2Proof.Machine

/-- The inputs the vectors default to: no key, `rnd = 0`, `tick = 0`. -/
def quiet : CycleInput := { key := none, rnd := 0, tick := false }

/-- The start state of the vectors: the reset state, asked for one cycle with inputs `inp`. -/
def asked (inp : CycleInput) : State := { State.reset with requests := [.cycle inp] }

/-- `asked` with the default inputs. -/
def start : State := asked quiet

/-- `asked` with a key sample. -/
def held (k : Nibble) : State := asked { quiet with key := some k }

/-- The state an outcome goes on with. -/
def nextOf : Host.Outcome State Fault Refusal → Option State
  | .next t => some t
  | _ => none

/-- The state after the step that runs word `w` at `pc`. -/
def after (w : Nat) (s : State) : Option State := nextOf (step (s.withFetchWord 16 w))

/-! ## Ill-formed lines, each refused by its own name (R78, R20) -/

theorem test_wf_missing_operand : AsmLine.check ⟨.jump, []⟩ = some .operandShape := by decide

theorem test_wf_wrong_operand_kind : AsmLine.check ⟨.loadImm, [.imm 1, .imm 2]⟩ = some .operandShape := by decide

theorem test_wf_no_such_register : AsmLine.check ⟨.loadImm, [.v 16, .imm 2]⟩ = some .noSuchRegister := by decide

theorem test_wf_no_such_second_register : AsmLine.check ⟨.move, [.v 15, .v 16]⟩ = some .noSuchRegister := by decide

theorem test_wf_address_too_wide : AsmLine.check ⟨.jump, [.imm 0x1000]⟩ = some .addressTooWide := by decide

theorem test_wf_immediate_too_wide : AsmLine.check ⟨.addImm, [.v 0, .imm 0x100]⟩ = some .immediateTooWide := by decide

theorem test_wf_height_too_wide : AsmLine.check ⟨.draw, [.v 0, .v 1, .imm 16]⟩ = some .heightTooWide := by decide

theorem test_wf_ill_formed_not_assembled :
    AsmLine.assemble ⟨.jump, [.imm 0x1000]⟩ = none ∧ AsmItem.bytes (.line ⟨.jump, [.imm 0x1000]⟩) = none ∧
    AsmItem.bytes (.data 0x100) = none := by decide

/-- Program P3's lines `draw V0, V1, 2` and `byte 0x81` give the bytes its table shows. -/
theorem test_wf_program_bytes :
    AsmItem.bytes (.line ⟨.draw, [.v 0, .v 1, .imm 2]⟩) = some [0xD0, 0x12] ∧
    AsmItem.bytes (.data 0x81) = some [0x81] := by decide

/-! ## Decoding: words written out from R73's rows, by group -/

theorem test_decode_group_0 :
    decode 0x00E0 = .instr .clearDisplay ∧ decode 0x00EE = .instr .ret := by decide

theorem test_decode_jumps :
    decode 0x1ABC = .instr (.jump 0xABC) ∧ decode 0x2DEF = .instr (.call 0xDEF) ∧
    decode 0xA2F0 = .instr (.loadIndex 0x2F0) ∧ decode 0xBFFF = .instr (.jumpV0 0xFFF) := by decide

theorem test_decode_skips :
    decode 0x3F01 = .instr (.skipEqImm 0xF 0x01) ∧ decode 0x4310 = .instr (.skipNeImm 3 0x10) ∧
    decode 0x5120 = .instr (.skipEqReg 1 2) ∧ decode 0x9120 = .instr (.skipNeReg 1 2) := by decide

theorem test_decode_immediates :
    decode 0x6A42 = .instr (.loadImm 0xA 0x42) ∧ decode 0x72FE = .instr (.addImm 2 0xFE) ∧
    decode 0xC30F = .instr (.random 3 0x0F) ∧ decode 0xD123 = .instr (.draw 1 2 3) := by decide

theorem test_decode_group_8 :
    decode 0x8120 = .instr (.move 1 2) ∧ decode 0x8121 = .instr (.orReg 1 2) ∧
    decode 0x8122 = .instr (.andReg 1 2) ∧ decode 0x8123 = .instr (.xorReg 1 2) ∧
    decode 0x8124 = .instr (.addCarry 1 2) ∧ decode 0x8125 = .instr (.sub 1 2) ∧
    decode 0x8126 = .instr (.shiftRight 1 2) ∧ decode 0x8127 = .instr (.subReversed 1 2) ∧
    decode 0x812E = .instr (.shiftLeft 1 2) := by decide

theorem test_decode_group_E_F :
    decode 0xE19E = .instr (.skipIfKey 1) ∧ decode 0xE1A1 = .instr (.skipIfNotKey 1) ∧
    decode 0xF307 = .instr (.readDelay 3) ∧ decode 0xF50A = .instr (.waitKey 5) ∧
    decode 0xF215 = .instr (.writeDelay 2) ∧ decode 0xF218 = .instr (.writeSound 2) ∧
    decode 0xF21E = .instr (.addIndex 2) ∧ decode 0xFA29 = .instr (.fontAddress 0xA) ∧
    decode 0xF533 = .instr (.bcd 5) ∧ decode 0xF355 = .instr (.dump 3) ∧ decode 0xF365 = .instr (.load 3) := by
  decide

/-- V3, V4, V5, V9: words that match no row. -/
theorem test_decode_unmatched :
    decode 0x5121 = .unmatched 0x5 ∧ decode 0x01E0 = .unmatched 0x0 ∧ decode 0x8008 = .unmatched 0x8 ∧
    decode 0x800F = .unmatched 0x8 ∧ decode 0xE19F = .unmatched 0xE ∧ decode 0xF0FF = .unmatched 0xF ∧
    decode 0xF130 = .unmatched 0xF ∧ decode 0x0123 = .unmatched 0x0 ∧ decode 0x00E1 = .unmatched 0x0 ∧
    decode 0x00EF = .unmatched 0x0 ∧ decode 0x9121 = .unmatched 0x9 := by decide

/-- The bytes of a word in memory, high byte first, are the instruction and the rest of the list (R54, R70). -/
theorem test_decode_bytes :
    decodeBytes [0x6A, 0x42, 0x12] = some (.instr (.loadImm 0xA 0x42), [0x12]) ∧ decodeBytes [0x6A] = none ∧
    decodeTableWord 16 0x8127 = some (.subReversed 1 2) ∧ decodeTableWord 16 0x5121 = none := by decide

/-! ## The cycle -/

/-- V1: a fetch at 0x0FFF reads 0 for its low byte, and the word 0x1200 jumps. -/
theorem test_fetch_last_byte :
    (nextOf (step ((start.setPc 0x0FFF).memWrite 0x0FFF 0x12))).map (·.pc) = some 0x0200 := by decide +kernel

/-- V6: a fetch at 0xFFFE is a no-op and `pc` wraps. -/
theorem test_fetch_wraps :
    nextOf (step (start.setPc 0xFFFE)) = some { State.reset with pc := 0 } := by decide +kernel

/-- V8: an odd `pc` fetches. -/
theorem test_fetch_odd :
    (nextOf (step (((start.setPc 0x0201).memWrite 0x0201 0x6A).memWrite 0x0202 0x05))).map
      (fun t => (t.getV 0xA, t.pc)) = some (0x05, 0x0203) := by decide +kernel

/-- V3, E10: an unmatched word changes `pc` alone. -/
theorem test_unmatched_only_advances :
    after 0x00FF start =
      some { start.withFetchWord 16 0x00FF with pc := 0x0202, requests := [] } := by decide +kernel

/-- The first instruction after reset runs, whatever the free inputs are. -/
theorem test_runs_after_reset : ∃ t, step (State.reset.withFetchWord 16 0x6A42) = .next t ∧ t.getV 0xA = 0x42 :=
  ⟨_, rfl, rfl⟩

/-- V100, V101: a reset sets the core's state, keeps memory and makes no output. -/
theorem test_reset :
    nextOf (step { State.reset with
      V := Vector.replicate 16 0xAB, I := 0x123, pc := 0x456, sp := 0x0F6, DT := 9, ST := 4, tone := true,
      mode := .waitKey 3, mem := [(0x0F0, 7)], requests := [.reset none] }) =
    some { State.reset with mem := [(0x0F0, 7)] } := by decide +kernel

/-- V99: a service in mode `WaitKey` counts the timers and drives the tone, and keeps the mode. -/
theorem test_service_while_waiting :
    nextOf (step { State.reset with DT := 4, tone := true, mode := .waitKey 2, requests := [.service true] }) =
    some { State.reset with DT := 3, mode := .waitKey 2, trace := [.toneSet false] } := by decide +kernel

/-- V94, V97: one service at `ST = 0`, and one at `ST = 5`. -/
theorem test_timer_phase :
    { State.reset with tone := true }.timerPhase true = { State.reset with trace := [.toneSet false] } ∧
    { State.reset with ST := 5, DT := 1 }.timerPhase true =
      { State.reset with ST := 4, tone := true, trace := [.toneSet true] } := by decide +kernel

/-- The key wait of 95_test_vectors.md 2.6, its fourth cycle: the key ends it, and nothing is fetched. -/
theorem test_wait_ends_with_key :
    (nextOf (step { held 0xC with mode := .waitKey 5, pc := 0x0202 })).map
      (fun t => (t.mode, t.getV 5, t.pc)) = some (.run, 0x0C, 0x0202) := by decide +kernel

/-- The same wait, its second cycle: no key, `tick = 1`. -/
theorem test_wait_goes_on :
    (nextOf (step { asked { quiet with tick := true } with mode := .waitKey 5, DT := 2 })).map
      (fun t => (t.mode, t.DT, t.pc, t.trace)) = some (.waitKey 5, 1, 0x0200, [.toneSet false]) := by
  decide +kernel

/-! ## Display -/

/-- V10: 00E0 blanks the grid, makes one present event and keeps VF. -/
theorem test_clear_display :
    (after 0x00E0 ((start.setFb (start.fb.set 3 2 true)).setV 15 0x42)).map
      (fun t => (t.fb, t.trace, t.getV 15)) = some (State.reset.fb, [.present], 0x42) := by decide +kernel

/-- V16: a sprite that overlaps itself on a 4 by 2 grid, in the order of the loop. -/
theorem test_draw_loop_order :
    (after 0xD011 { (start.setI 0x300).memWrite 0x300 0x88 with
      fb := Grid.blank 4 2, par := { Defaults.params with displayW := 4, displayH := 2 } }).map
      (fun t => (t.fb, t.getV 15, t.trace)) = some (Grid.blank 4 2, 1, [.present]) := by decide +kernel

/-- V14: with `x = 15` the column is the old VF; E5: the columns wrap. -/
theorem test_draw_latched_and_wrapped :
    (after 0xDF11 (((start.setI 0x300).memWrite 0x300 0x80).setV 15 5)).map
      (fun t => (t.fb, t.getV 15)) = some ((Grid.blank 64 32).set 5 0 true, 0) ∧
    (after 0xD011 (((start.setI 0x300).memWrite 0x300 0xFF).setV 0 63)).map
      (fun t => (t.fb.getD 0 [], t.getV 15)) =
        some (List.replicate 7 true ++ List.replicate 56 false ++ [true], 0) := by decide +kernel

/-! ## Control transfer -/

/-- V28, V27. -/
theorem test_jump :
    (after 0x1ABC start).map (·.pc) = some 0x0ABC ∧ (after 0x1200 start).map (·.pc) = some 0x0200 := by
  decide +kernel

/-- V30, V31. -/
theorem test_jump_v0_wraps :
    (after 0xBFFF (start.setV 0 0x01)).map (·.pc) = some 0x0000 ∧
    (after 0xBFF0 (start.setV 0 0xFF)).map (·.pc) = some 0x00EF := by decide +kernel

/-- V32. -/
theorem test_call :
    (after 0x2300 start).map (fun t => (t.memRead 0x0F0, t.memRead 0x0F1, t.sp, t.pc)) =
      some (0x02, 0x02, 0x0F2, 0x0300) := by decide +kernel

/-- V33: the byte at 0xFFFF is dropped and `sp + 1` wraps. -/
theorem test_call_at_top :
    (after 0x2300 (start.setSp 0xFFFF)).map (fun t => (t.memRead 0xFFFF, t.memRead 0x000, t.sp, t.pc)) =
      some (0x00, 0x02, 0x0001, 0x0300) := by decide +kernel

/-- V34: a return from an empty stack. -/
theorem test_return :
    (after 0x00EE ((start.memWrite 0x0EE 0x34).memWrite 0x0EF 0x12)).map (fun t => (t.pc, t.sp)) =
      some (0x1234, 0x0EE) := by decide +kernel

/-- V18, V19, and V36 at the top of memory. -/
theorem test_skip_eq_imm :
    (after 0x3310 (start.setV 3 0x10)).map (·.pc) = some 0x0204 ∧
    (after 0x3310 (start.setV 3 0x11)).map (·.pc) = some 0x0202 ∧
    (after 0x3000 (start.setPc 0x0FFC)).map (·.pc) = some 0x1000 := by decide +kernel

/-- V20, V21. -/
theorem test_skip_ne_imm :
    (after 0x4310 (start.setV 3 0x10)).map (·.pc) = some 0x0202 ∧
    (after 0x4310 (start.setV 3 0x11)).map (·.pc) = some 0x0204 := by decide +kernel

/-- V22, V24. -/
theorem test_skip_eq_reg :
    (after 0x5440 (start.setV 4 0x99)).map (·.pc) = some 0x0204 ∧
    (after 0x5120 ((start.setV 1 7).setV 2 8)).map (·.pc) = some 0x0202 := by decide +kernel

/-- V23, V25. -/
theorem test_skip_ne_reg :
    (after 0x9440 (start.setV 4 0x99)).map (·.pc) = some 0x0202 ∧
    (after 0x9120 ((start.setV 1 7).setV 2 8)).map (·.pc) = some 0x0204 := by decide +kernel

/-! ## Register loads and the ALU -/

/-- `V[x]` and VF after the step that runs `w`. -/
def xAndFlag (w : Nat) (x : Reg) (s : State) : Option (Byte × Byte) :=
  (after w s).map fun t => (t.getV x, t.getV 15)

/-- V37. -/
theorem test_load_imm : xAndFlag 0x6A42 0xA start = some (0x42, 0) := by decide +kernel

/-- V38, V39. -/
theorem test_add_imm :
    xAndFlag 0x7201 2 (start.setV 2 0xFF) = some (0, 0) ∧
    xAndFlag 0x7F01 15 (start.setV 15 0xFF) = some (0, 0) := by decide +kernel

/-- V44. -/
theorem test_move : xAndFlag 0x8150 1 (start.setV 5 0x33) = some (0x33, 0) := by decide +kernel

/-- V40. -/
theorem test_or :
    xAndFlag 0x8121 1 (((start.setV 1 0x0F).setV 2 0xF0).setV 15 0x55) = some (0xFF, 0x55) := by decide +kernel

/-- V41. -/
theorem test_and :
    xAndFlag 0x8122 1 (((start.setV 1 0x3C).setV 2 0x0F).setV 15 0x55) = some (0x0C, 0x55) := by decide +kernel

/-- V42, V43. -/
theorem test_xor :
    xAndFlag 0x8123 1 (((start.setV 1 0x3C).setV 2 0x0F).setV 15 0x55) = some (0x33, 0x55) ∧
    xAndFlag 0x8113 1 (start.setV 1 0x3C) = some (0, 0) := by decide +kernel

/-- V45, and E1's second row. -/
theorem test_add_carry :
    xAndFlag 0x8124 1 ((start.setV 1 0x80).setV 2 0x80) = some (0x00, 1) ∧
    xAndFlag 0x8124 1 ((start.setV 1 0xFE).setV 2 0x01) = some (0xFF, 0) := by decide +kernel

/-- V47, V48: VF as the destination, and as the second operand. -/
theorem test_add_carry_with_flag_register :
    xAndFlag 0x8F24 15 ((start.setV 15 0x10).setV 2 0xF5) = some (0x05, 0x05) ∧
    xAndFlag 0x81F4 1 ((start.setV 1 0x01).setV 15 0xFF) = some (0x00, 1) := by decide +kernel

/-- E1's third and fourth rows, and V49: the comparison is strict. -/
theorem test_sub :
    xAndFlag 0x8125 1 ((start.setV 1 0x05).setV 2 0x03) = some (0x02, 1) ∧
    xAndFlag 0x8125 1 ((start.setV 1 0x03).setV 2 0x05) = some (0xFE, 0) ∧
    xAndFlag 0x8125 1 ((start.setV 1 0x03).setV 2 0x03) = some (0x00, 0) := by decide +kernel

/-- V51. -/
theorem test_sub_into_flag_register :
    xAndFlag 0x8F25 15 ((start.setV 15 0x10).setV 2 0x01) = some (0x0F, 0x0F) := by decide +kernel

/-- V52, V53 (`y` ignored). -/
theorem test_shift_right :
    xAndFlag 0x8106 1 (start.setV 1 0x01) = some (0x00, 1) ∧
    xAndFlag 0x8126 1 ((start.setV 1 0x04).setV 2 0xFF) = some (0x02, 0) := by decide +kernel

/-- V54. -/
theorem test_shift_right_flag_register :
    xAndFlag 0x8F06 15 (start.setV 15 0x03) = some (0x01, 0x01) := by decide +kernel

/-- V55, V56. -/
theorem test_sub_reversed :
    xAndFlag 0x8127 1 ((start.setV 1 0x02).setV 2 0x05) = some (0xFD, 1) ∧
    xAndFlag 0x8127 1 ((start.setV 1 0x03).setV 2 0x03) = some (0x00, 0) := by decide +kernel

/-- V57. -/
theorem test_sub_reversed_into_flag_register :
    xAndFlag 0x8F27 15 ((start.setV 15 0x01).setV 2 0x05) = some (0xFC, 0xFC) := by decide +kernel

/-- V58, V59 (`y` ignored). -/
theorem test_shift_left :
    xAndFlag 0x810E 1 (start.setV 1 0x81) = some (0x02, 1) ∧
    xAndFlag 0x812E 1 ((start.setV 1 0x40).setV 2 0xFF) = some (0x80, 0) := by decide +kernel

/-- V61. -/
theorem test_shift_left_flag_register :
    xAndFlag 0x8F0E 15 (start.setV 15 0xC0) = some (0x80, 0x80) := by decide +kernel

/-- V62. -/
theorem test_random : xAndFlag 0xC30F 3 (asked { quiet with rnd := 0xA5 }) = some (0x05, 0) := by decide +kernel

/-! ## Index and memory -/

/-- V65. -/
theorem test_load_index : (after 0xA2F0 start).map (·.I) = some 0x02F0 := by decide +kernel

/-- V66, V67. -/
theorem test_add_index :
    (after 0xF21E ((start.setI 0x0FFF).setV 2 0x02)).map (fun t => (t.I, t.getV 15)) = some (0x1001, 0) ∧
    (after 0xF21E ((start.setI 0xFFFF).setV 2 0x01)).map (·.I) = some 0x0000 := by decide +kernel

/-- V68, V70. -/
theorem test_font_address :
    (after 0xFA29 (start.setV 0xA 0x0A)).map (·.I) = some 0x0032 ∧
    (after 0xFA29 (start.setV 0xA 0xFF)).map (·.I) = some 0x04FB := by decide +kernel

/-- E8, V71. -/
theorem test_bcd :
    (after 0xF533 ((start.setI 0x300).setV 5 234)).map
      (fun t => (t.memRead 0x300, t.memRead 0x301, t.memRead 0x302, t.I)) = some (2, 3, 4, 0x300) ∧
    (after 0xF533 ((start.setI 0x300).setV 5 255)).map
      (fun t => (t.memRead 0x300, t.memRead 0x301, t.memRead 0x302)) = some (2, 5, 5) := by decide +kernel

/-- V74: the hundreds are dropped, and the block wraps into the small font. -/
theorem test_bcd_wraps :
    (after 0xF533 ((start.setI 0xFFFF).setV 5 123)).map
      (fun t => (t.memRead 0xFFFF, t.memRead 0x000, t.memRead 0x001)) = some (0, 2, 3) := by decide +kernel

/-- V75: one byte with `x = 0`. -/
theorem test_dump_one :
    (after 0xF055 (((start.setI 0x300).setV 0 0x77).setV 1 0x88)).map
      (fun t => (t.memRead 0x300, t.memRead 0x301, t.I)) = some (0x77, 0, 0x300) := by decide +kernel

/-- V76: the bytes above memory are dropped. -/
theorem test_dump_at_top :
    (after 0xF355 (((((start.setI 0x0FFE).setV 0 1).setV 1 2).setV 2 3).setV 3 4)).map
      (fun t => (t.memRead 0xFFE, t.memRead 0xFFF, t.memRead 0x1000, t.I)) = some (1, 2, 0, 0x0FFE) := by
  decide +kernel

/-- V77: the bytes above memory read as 0, and V4 stays. -/
theorem test_load_at_top :
    (after 0xF365 ((((((start.setI 0x0FFE).memWrite 0xFFE 0xAA).memWrite 0xFFF 0xBB).setV 2 0x99).setV 3 0x99).setV
      4 0x44)).map (fun t => (t.getV 0, t.getV 1, t.getV 2, t.getV 3, t.getV 4)) =
      some (0xAA, 0xBB, 0, 0, 0x44) := by decide +kernel

/-- V78: `x = 15` loads VF. -/
theorem test_load_all :
    (after 0xFF65 ((start.setI 0x300).memWrite 0x30F 0x5A)).map (fun t => (t.getV 15, t.getV 14, t.I)) =
      some (0x5A, 0, 0x300) := by decide +kernel

/-! ## Keys and timers -/

/-- V80, V81, V83. -/
theorem test_skip_if_key :
    (after 0xE19E ((held 0xA).setV 1 0x0A)).map (·.pc) = some 0x0204 ∧
    (after 0xE19E ((held 0xB).setV 1 0x0A)).map (·.pc) = some 0x0202 ∧
    (after 0xE19E ((held 0xA).setV 1 0x1A)).map (·.pc) = some 0x0202 := by decide +kernel

/-- V84, V85, V86. -/
theorem test_skip_if_not_key :
    (after 0xE1A1 (start.setV 1 0x0A)).map (·.pc) = some 0x0204 ∧
    (after 0xE1A1 ((held 0xA).setV 1 0x0A)).map (·.pc) = some 0x0202 ∧
    (after 0xE1A1 ((held 0xA).setV 1 0x1A)).map (·.pc) = some 0x0204 := by decide +kernel

/-- V87: the timer is read before the timer phase. -/
theorem test_read_delay :
    (after 0xF307 ((asked { quiet with tick := true }).setDT 0x3C)).map (fun t => (t.getV 3, t.DT)) =
      some (0x3C, 0x3B) := by decide +kernel

/-- V88. -/
theorem test_wait_key_held :
    (after 0xF50A (held 7)).map (fun t => (t.getV 5, t.mode, t.pc)) = some (7, .run, 0x0202) := by decide +kernel

/-- The key wait of 95_test_vectors.md 2.6, its first cycle. -/
theorem test_wait_key_none :
    (after 0xF50A (start.setDT 2)).map (fun t => (t.mode, t.getV 5, t.DT, t.pc, t.trace)) =
      some (.waitKey 5, 0, 2, 0x0202, []) := by decide +kernel

/-- V89, V90. -/
theorem test_write_delay :
    (after 0xF215 ((asked { quiet with tick := true }).setV 2 0x3C)).map (·.DT) = some 0x3B ∧
    (after 0xF215 (start.setDT 9)).map (·.DT) = some 0 := by decide +kernel

/-- V91, V92. -/
theorem test_write_sound :
    (after 0xF218 (start.setV 2 0x03)).map (fun t => (t.ST, t.tone, t.trace)) = some (3, false, []) ∧
    (after 0xF218 ((asked { quiet with tick := true }).setV 2 0x01)).map (fun t => (t.ST, t.tone, t.trace)) =
      some (0, true, [.toneSet true]) := by decide +kernel

/-! ## Witnesses: the premises of each obligation that has any, met together -/

theorem witness_decode_then_encode : decode 0x8126 = .instr (.shiftRight 1 2) := by decide

theorem witness_two_rows : (0x8124 : Word) &&& Mnemonic.addCarry.mask = Mnemonic.addCarry.pattern := by decide

/-- A word of each of the six groups that have no-op words. -/
theorem witness_unmatched :
    decode 0x00E1 = .unmatched 0x0 ∧ decode 0x5121 = .unmatched 0x5 ∧ decode 0x8008 = .unmatched 0x8 ∧
    decode 0x900F = .unmatched 0x9 ∧ decode 0xE09F = .unmatched 0xE ∧ decode 0xFFFF = .unmatched 0xF := by decide

/-- Each clause of the fetch, at the ends of its range. -/
theorem witness_fetch_word :
    ((start.setPc 0x1000).fetchWord = 0 ∧ (start.setPc 0xFFFE).fetchWord = 0) ∧
    (start.setPc 0xFFFF).fetchWord.toNat = (start.memRead 0).toNat ∧
    ((start.setPc 0x0FFF).memWrite 0x0FFF 0x12).fetchWord = 0x1200 := by decide +kernel

theorem witness_step_runs_decoded :
    (start.withFetchWord 16 0x6A42).mode = .run ∧
    (start.withFetchWord 16 0x6A42).nextRequest = .cycle quiet ∧
    decode (start.withFetchWord 16 0x6A42).fetchWord = .instr (.loadImm 0xA 0x42) := by decide +kernel

theorem witness_step_unmatched :
    (start.withFetchWord 16 0x00FF).mode = .run ∧
    (start.withFetchWord 16 0x00FF).nextRequest = .cycle quiet ∧
    ∀ m : Mnemonic, (start.withFetchWord 16 0x00FF).fetchWord &&& m.mask ≠ m.pattern :=
  ⟨rfl, rfl, fun m => by cases m <;> decide +kernel⟩

/-- The waiting state of the witnesses. -/
def waiting (inp : CycleInput) : State := { asked inp with mode := .waitKey 5 }

theorem witness_wait_cycle :
    ((waiting quiet).mode = .waitKey 5 ∧ (waiting quiet).nextRequest = .cycle quiet ∧ quiet.key = none) ∧
    ∃ inp, (waiting inp).mode = .waitKey 5 ∧ (waiting inp).nextRequest = .cycle inp ∧ inp.key = some 0xC :=
  ⟨by decide, { quiet with key := some 0xC }, by decide⟩

theorem witness_wait_without_key :
    { waiting quiet with requests := [quiet, quiet].map Request.cycle ++ [Request.service true] }.mode = .waitKey 5 ∧
    ∀ c ∈ [quiet, quiet], c.key = none := by decide

theorem witness_service :
    { State.reset with requests := [.service true] }.nextRequest = .service true := rfl

theorem witness_reset :
    { State.reset with requests := [.reset none] }.nextRequest = .reset none ∧
    { State.reset with requests := [.reset (some quiet)] }.nextRequest = .reset (some quiet) := ⟨rfl, rfl⟩

/-- A program that just fits, and one byte more. -/
theorem witness_launch_lengths :
    ∃ fits tooLong : LaunchImage, fits.Legal Defaults.params ∧ fits.program.length = 3584 ∧
      tooLong.Legal Defaults.params ∧ tooLong.program.length = 3585 :=
  ⟨{ Defaults.image with program := List.replicate 3584 1 },
    { Defaults.image with program := List.replicate 3585 1 },
    by decide +kernel, List.length_replicate, by decide +kernel, List.length_replicate⟩

/-- A launch with a program of two bytes, a font byte at each end, and a filler byte beside them. -/
def booted : Option State :=
  State.launch Defaults.params { Defaults.image with
    program := [0x12, 0x34], largeFont := [0x3C] ++ List.replicate 158 0 ++ [0xC3],
    filler := [(0x0F0, 7), (0x1FF, 8), (0x202, 9)] }

/-- The bytes of that launch at the ends of each range of the memory map (R57, R236). -/
theorem witness_launch_bytes :
    booted.map (fun s => [0x000, 0x04F, 0x050, 0x0EF, 0x0F0, 0x1FF, 0x200, 0x201, 0x202, 0x1000].map s.memRead) =
      some [0xF0, 0x80, 0x3C, 0xC3, 7, 8, 0x12, 0x34, 9, 0] := by decide +kernel

theorem witness_launch_invariant :
    Defaults.params.Legal ∧ Defaults.image.Legal Defaults.params ∧
    ∃ s, State.launch Defaults.params Defaults.image = some s :=
  ⟨by decide, by decide +kernel, _, rfl⟩

theorem witness_invariant : Inv start ∧ ∃ t, step start = .next t := ⟨by decide +kernel, _, rfl⟩

/-- Fx0A enters the wait; a key and a reset each leave it. -/
theorem witness_mode_changes :
    (start.withFetchWord 16 0xF50A).mode = .run ∧
    (after 0xF50A start).map (·.mode) = some (.waitKey 5) ∧
    (nextOf (step (waiting { quiet with key := some 0xC }))).map (·.mode) = some .run ∧
    (nextOf (step { waiting quiet with requests := [.reset none] })).map (·.mode) = some .run := by
  decide +kernel

/-- Every element the whole-machine rule speaks of is changed by some instruction of its list. -/
theorem witness_elements_change :
    (nextOf (exec (.loadIndex 5) start)).map (·.I) = some 5 ∧
    (nextOf (exec (.call 5) start)).map (fun t => (t.pc, t.sp, t.memRead 0x0F1)) = some (5, 0x0F2, 2) ∧
    (nextOf (exec (.writeDelay 1) (start.setV 1 6))).map (·.DT) = some 6 ∧
    (nextOf (exec (.writeSound 1) (start.setV 1 6))).map (·.ST) = some 6 ∧
    (nextOf (exec (.waitKey 1) start)).map (·.mode) = some (.waitKey 1) ∧
    (nextOf (exec (.draw 0 0 1) start)).map (fun t => (t.fb.get 0 0, t.trace)) = some (true, [.present]) := by
  decide +kernel

/-- A register changed as a result, and VF changed as a flag. -/
theorem witness_register_changes :
    (nextOf (exec (.loadImm 1 5) start)).map (·.getV 1) = some 5 ∧
    (nextOf (exec (.shiftRight 1 0) (start.setV 1 1))).map (·.getV 15) = some 1 := by decide +kernel

/-- The last byte of memory, and the first address above it. -/
theorem witness_memory_write :
    (0x0FFF : Addr).toNat < 4096 ∧ (start.memWrite 0x0FFF 7).memRead 0x0FFF = 7 ∧
    4096 ≤ (0x1000 : Addr).toNat ∧ (start.memWrite 0x1000 7).memRead 0x1000 = 0 := by decide +kernel

/-- The first two registers, and a block whose bytes `k` and `k + 1` are the last of memory. -/
theorem witness_fetch_dumped :
    (0 + 1 ≤ (1 : Reg).toNat ∧ (start.setI 0x204).I.toNat + 0 + 1 < 4096) ∧
    (14 + 1 ≤ (15 : Reg).toNat ∧ (start.setI 0x0FF0).I.toNat + 14 + 1 < 4096) := by decide

theorem witness_draw : Inv (start.setI 0x300) ∧ (1 : Nat) < (2 : Nibble).toNat ∧ 7 < 8 := by decide +kernel

/-- Each case of the truth table on the last pixel of a grid of 4 by 2. -/
theorem witness_compositor :
    ∃ (p : Config.Params) (off on : Grid) (q : Bool → Pixel), off.wf p ∧ on.wf p ∧
      (∀ d, (q d).d = d ∧ (q d).x < p.displayW ∧ (q d).y < p.displayH ∧
        off.get (q d).x (q d).y = false ∧ on.get (q d).x (q d).y = true) :=
  ⟨{ Defaults.params with displayW := 4, displayH := 2 }, Grid.blank 4 2, (Grid.blank 4 2).set 3 1 true,
    fun d => { x := 3, y := 1, d := d }, by decide, by decide, by decide⟩

theorem witness_draw_twice : Inv start ∧ (0 : Reg) ≠ 15 ∧ (14 : Reg) ≠ 15 := by decide +kernel

/-- A grid of the least size the statement speaks of. -/
theorem witness_draw_flag :
    ∃ s : State, Inv s ∧ 8 ≤ s.par.displayW ∧ (15 : Nibble).toNat ≤ s.par.displayH :=
  ⟨{ start with fb := Grid.blank 8 15, par := { Defaults.params with displayW := 8, displayH := 15 } },
    by decide +kernel⟩

theorem witness_self_jump :
    AtSelfJump (start.withFetchWord 16 0x1200) ∧ (start.withFetchWord 16 0x1200).nextRequest = .cycle quiet :=
  ⟨⟨rfl, 0x200, by decide +kernel⟩, rfl⟩

/-- The stack pointer at the last byte of memory, and at the last address of the port. -/
theorem witness_call_edges :
    ((0x0FFF : Addr).toNat < 4096 ∧ ¬((0x0FFF : Addr) + 1).toNat < 4096) ∧
    (¬(0xFFFF : Addr).toNat < 4096 ∧ ((0xFFFF : Addr) + 1).toNat < 4096) := by decide

/-- An empty stack with room for one address, and a stack that holds one. -/
theorem witness_call_stack :
    (HoldsCalls (start.setSp 0x0FFE) 0x0FFE [] ∧ (start.setSp 0x0FFE).sp.toNat + 2 ≤ 4096) ∧
    HoldsCalls (((start.setSp 0x0F2).memWrite 0x0F0 0x04).memWrite 0x0F1 0x02) 0x0F0 [0x0204] :=
  ⟨⟨⟨rfl, by decide, fun k h => absurd h (Nat.not_lt_zero k)⟩, by decide⟩,
    rfl, by decide, fun k h => by
      obtain rfl : k = 0 := Nat.lt_one_iff.mp h
      simp only [List.getElem_cons_zero]
      decide +kernel⟩

/-- Each digit stored while its neighbour is dropped. -/
theorem witness_bcd_edges :
    ((0x0FFF : Addr).toNat < 4096 ∧ ¬((0x0FFF : Addr) + 1).toNat < 4096) ∧
    (((0xFFFF : Addr) + 1).toNat < 4096 ∧ ((0xFFFF : Addr) + 2).toNat < 4096) ∧
    ((0x0300 : Addr) ≠ 0x0FFF ∧ (0x0300 : Addr) ≠ 0x0FFF + 1 ∧ (0x0300 : Addr) ≠ 0x0FFF + 2) ∧
    (0xF533 : Word) &&& 0xF0FF = 0xF033 := by decide

theorem witness_dump_edges :
    (1 ≤ (3 : Reg).toNat ∧ ((start.setI 0x0FFE).effAddr 1).toNat < 4096) ∧
    ∀ k, k ≤ (1 : Reg).toNat → (0x0300 : Addr) ≠ (start.setI 0x0FFE).effAddr k :=
  ⟨by decide, fun k h => by
    have : k = 0 ∨ k = 1 := by change k ≤ 1 at h; omega
    rcases this with rfl | rfl <;> decide⟩

/-- The last block that fits, and a state with the same memory and `I`. -/
theorem witness_dump_then_load :
    (start.setI 0x0FF0).I.toNat + (15 : Reg).toNat < 4096 ∧
    ∃ t u : State, exec (.dump 15) (start.setI 0x0FF0) = .next t ∧ u.mem = t.mem ∧ u.I = t.I ∧ u.getV 0 = 9 :=
  ⟨by decide, _, State.setV (start.dumpBlock 0x0FF0 16 |>.setI 0x0FF0) 0 9, rfl, rfl, rfl, rfl⟩

/-- A key that matches, no key, and a register above 15. -/
theorem witness_key_skips :
    (∃ s : State, ∃ k, s.inp.key = some k ∧ k.toNat = (s.getV 1).toNat) ∧
    (∃ s : State, ¬∃ k, s.inp.key = some k ∧ k.toNat = (s.getV 1).toNat) ∧
    (∃ s : State, 16 ≤ (s.getV 1).toNat) :=
  ⟨⟨(start.latch { quiet with key := some 0xF }).setV 1 0x0F, 0xF, rfl, rfl⟩,
    ⟨start, fun ⟨_, h, _⟩ => nomatch h⟩, start.setV 1 0x10, by decide⟩

theorem witness_read_delay_step :
    (start.withFetchWord 16 0xF307).mode = .run ∧ (start.withFetchWord 16 0xF307).nextRequest = .cycle quiet ∧
    decode (start.withFetchWord 16 0xF307).fetchWord = .instr (.readDelay 3) := by decide +kernel

theorem witness_write_delay_step :
    (start.withFetchWord 16 0xF215).mode = .run ∧ (start.withFetchWord 16 0xF215).nextRequest = .cycle quiet ∧
    decode (start.withFetchWord 16 0xF215).fetchWord = .instr (.writeDelay 2) := by decide +kernel

theorem witness_write_sound_step :
    (start.withFetchWord 16 0xF218).mode = .run ∧ (start.withFetchWord 16 0xF218).nextRequest = .cycle quiet ∧
    decode (start.withFetchWord 16 0xF218).fetchWord = .instr (.writeSound 2) ∧
    (start.getV 2).toNat = 0 ∧ ((start.setV 2 1).getV 2).toNat = 1 := by decide +kernel

theorem witness_wait_key : (start.latch { quiet with key := some 0xF }).inp.key = some 0xF ∧ start.inp.key = none :=
  ⟨rfl, rfl⟩

/-- A cycle in each mode. -/
theorem witness_timer_phase_cycle :
    (start.nextRequest = .cycle quiet ∧ start.mode = .run) ∧
    ((waiting quiet).nextRequest = .cycle quiet ∧ (waiting quiet).mode = .waitKey 5) := ⟨⟨rfl, rfl⟩, rfl, rfl⟩

/-- One service with the sound timer at 1, and a second one after it. -/
theorem witness_services :
    (({ State.reset with ST := 1 }).services 1).tone = true ∧
    (({ State.reset with ST := 1 }).services 2).tone = false := by decide

end Sys2Proof.Tests
end

section
/-! SUPPORT. Proofs of the statements about memory (20_memory.md). -/

namespace Sys2Proof.Machine

/-- A write inside memory is what the next read of its address sees (R51, R52, R60). -/
theorem State.memRead_memWrite_same (s : State) {a : Addr} (v : Byte) (h : a.toNat < Config.memSize) :
    (s.memWrite a v).memRead a = v := by
  simp [State.memRead_memWrite, h]

/-- A write outside memory leaves the whole machine as it was (R52). -/
theorem State.memWrite_outside (s : State) {a : Addr} (v : Byte) (h : Config.memSize ≤ a.toNat) :
    s.memWrite a v = s := by
  simp [State.memWrite, Memory.write_outside s.mem v h]

/-- Settles O25: the frame is `memWrite`'s own shape; inside memory the read-after-write law gives the byte and its
neighbours, outside it the dropped write and the read of 0. -/
theorem memoryWriteSetsOneByteOrNothing : Obligations.MemoryWriteSetsOneByteOrNothing := by
  intro s a v
  refine ⟨rfl, fun inside => ⟨?_, fun b hne => ?_⟩, fun outside => ⟨?_, ?_⟩⟩
  · exact s.memRead_memWrite_same v inside
  · exact s.memRead_memWrite_ne v hne
  · exact s.memWrite_outside v outside
  · exact Memory.read_outside s.mem outside

end Sys2Proof.Machine
end

section
/-! SUPPORT. Proofs of the statements about the display (40_display.md). -/

namespace Sys2Proof.Machine

/-- The flag after one pixel: raised before, or raised by a sprite bit of 1 over a pixel that is on (R101, R102). -/
@[simp] theorem compositePixel_flag (g : Grid) (seen : Bool) (q : Pixel) :
    (compositePixel (g, seen) q).2 = (seen || (q.d && g.get q.x q.y)) := rfl

/-- Compositing one pixel keeps the grid's size (R31). -/
theorem compositePixel_wf {g : Grid} {p : Config.Params} (seen : Bool) (q : Pixel) (h : g.wf p) :
    (compositePixel (g, seen) q).1.wf p :=
  Grid.set_wf _ _ _ h

/-- The pixel composited is the exclusive or of the sprite bit and the pixel before (R102). -/
theorem compositePixel_get_same {g : Grid} (seen : Bool) {q : Pixel} (has : g.Has q.x q.y) :
    (compositePixel (g, seen) q).1.get q.x q.y = Bool.xor q.d (g.get q.x q.y) := by
  simp [compositePixel, compose, Grid.get_set _ has]

/-- Compositing one pixel changes no other pixel (R102). -/
theorem compositePixel_get_ne {g : Grid} (seen : Bool) {q : Pixel} (has : g.Has q.x q.y) {x y : Nat}
    (ne : (x, y) ≠ (q.x, q.y)) : (compositePixel (g, seen) q).1.get x y = g.get x y := by
  have other : ¬(x = q.x ∧ y = q.y) := fun ⟨hx, hy⟩ => ne (Prod.ext hx hy)
  simp [compositePixel, Grid.get_set _ has, other]

/-- Settles O29: the new pixel is an exclusive or and the contribution a conjunction, so each row of the table is those
two at the row's bits. -/
theorem compositorFollowsTruthTable : Obligations.CompositorFollowsTruthTable := by
  intro p g seen q hwf hx hy
  have has : g.Has q.x q.y := Grid.wf_has hwf hx hy
  have pixel := compositePixel_get_same seen has
  have flag := compositePixel_flag g seen q
  refine ⟨?off_off, ?off_on, ?on_off, ?on_on, compositePixel_wf seen q hwf,
    fun _ _ ne => compositePixel_get_ne seen has ne⟩
  all_goals
    intro bit cur
    rw [bit, cur] at pixel flag
    exact ⟨pixel, by simpa using flag⟩

end Sys2Proof.Machine
end

section
/-! SUPPORT. Proofs of the statements about the jumps (41_control.md): the rows of R73 that fix the selector alone, the
execute step of the two jumps, and the cycle at a self-jump. -/

namespace Sys2Proof.Machine

/-- A word matches a row that fixes the selector alone exactly when its selector is the row's (R73). -/
theorem and_selector_mask_eq_iff (w : Word) (c : Nibble) :
    w &&& 0xF000 = wordOf c 0x0 0x0 0x0 ↔ fieldC w = c := by
  rw [← wordOf_fields w, Laws.EncodeMatches.selector_row, wordOf_inj]
  simp

/-- The decoder answers an instruction only in the group of its own selector (R76). -/
theorem fieldC_encode_of_decodeNibbles {c x y n : Nibble} {i : Instr}
    (h : decodeNibbles c x y n = .instr i) : fieldC (encode i) = c := by
  unfold decodeNibbles at h
  repeat' split at h
  all_goals cases h
  -- What is left, in each arm that answers an instruction: the arm's condition on `c` gives the encoder's selector.
  all_goals
    apply (fieldC_wordOf ..).trans
    revert c
    decide

/-- An instruction whose row fixes the selector `c` alone is selected by that row, when its encoding has that selector
and every word with that selector decodes to it (R73). -/
theorem selectedBy_selector_row {c : Nibble} {f : Word → Instr} (henc : ∀ w, fieldC (encode (f w)) = c)
    (hdec : ∀ w, fieldC w = c → decode w = .instr (f w)) : SelectedBy 0xF000 (wordOf c 0x0 0x0 0x0) f := by
  intro w
  rw [and_selector_mask_eq_iff]
  exact ⟨fun h => (fieldC_encode_of_decodeNibbles h).symm.trans (henc w), hdec w⟩

@[simp] theorem fieldC_wordNNN (c : Nibble) (nnn : BitVec 12) : fieldC (wordNNN c nnn) = c :=
  fieldC_wordOf ..

/-- The words of 1nnn (R73, R112). -/
theorem jump_selectedBy : SelectedBy 0xF000 0x1000 fun w => .jump (fieldNNN w) := by
  refine selectedBy_selector_row (c := 0x1) (fun w => fieldC_wordNNN ..) fun w h => ?_
  rw [decode, h, fieldNNN_eq]
  rfl

/-- The words of Bnnn (R73, R118). -/
theorem jumpV0_selectedBy : SelectedBy 0xF000 0xB000 fun w => .jumpV0 (fieldNNN w) := by
  refine selectedBy_selector_row (c := 0xB) (fun w => fieldC_wordNNN ..) fun w h => ?_
  rw [decode, h, fieldNNN_eq]
  rfl

/-- 1nnn only sets `pc` (R112). -/
theorem exec_jump (nnn : BitVec 12) (s : State) : exec (.jump nnn) s = .next (s.setPc (zextNNN nnn)) := rfl

/-- Bnnn only sets `pc` (R118). -/
theorem exec_jumpV0 (nnn : BitVec 12) (s : State) :
    exec (.jumpV0 nnn) s =
      .next (s.setPc (BitVec.ofNat 16 ((nnn.toNat + (s.getV 0).toNat) % Config.memSize))) := rfl

/-- Setting `pc` back undoes the fetch's advance. -/
theorem State.advance_setPc_self (s : State) : s.advance.setPc s.pc = s := rfl

/-- Standing at a self-jump is a matter of mode, memory and `pc` alone. -/
theorem AtSelfJump.congr {s t : State} (h : AtSelfJump s) (hmode : t.mode = s.mode) (hmem : t.mem = s.mem)
    (hpc : t.pc = s.pc) : AtSelfJump t := by
  rwa [AtSelfJump, hmode, State.fetchWord_congr hmem hpc, hpc]

/-- A cycle at a self-jump is the timer phase on the sampled inputs: the jump undoes the advance (R112). -/
theorem step_of_atSelfJump {s : State} {inp : CycleInput} (h : AtSelfJump s) (hr : s.nextRequest = .cycle inp) :
    step s = .next ((s.sampled inp).timerPhase inp.tick) := by
  obtain ⟨hmode, nnn, hdec, htarget⟩ := h
  refine step_next_of_exec hmode hr hdec ?_
  have hpc : (s.sampled inp).pc = zextNNN nnn := by simp [htarget]
  rw [exec_jump, ← hpc, State.advance_setPc_self]

/-- The cycle's timer phase leaves the machine at its self-jump. -/
theorem atSelfJump_timerPhase_sampled {s : State} (inp : CycleInput) (h : AtSelfJump s) :
    AtSelfJump ((s.sampled inp).timerPhase inp.tick) :=
  h.congr (by simp) (by simp) (by simp)

/-- Settles O32: the row fixes the selector alone; the target is `nnn` zero-extended, so it has 12 bits; and at a
self-jump the jump undoes the fetch's advance, so the cycle is its timer phase. -/
theorem jumpLoadsAddress : Obligations.JumpLoadsAddress := by
  refine ⟨jump_selectedBy, fun nnn s => ?_, fun s inp h hr => ?_⟩
  · have htarget := zextNNN_toNat nnn
    exact ⟨s.setPc (zextNNN nnn), exec_jump nnn s, rfl, htarget, htarget.trans_lt nnn.isLt⟩
  · exact ⟨s.sampled inp, step_of_atSelfJump h hr, rfl, atSelfJump_timerPhase_sampled inp h⟩

/-- The target of Bnnn is below 4096, so 16 bits hold it (R118). -/
theorem toNat_ofNat_mod_memSize (a : Nat) : (BitVec.ofNat 16 (a % Config.memSize)).toNat = a % 4096 := by
  simp only [BitVec.toNat_ofNat, Config.memSize]
  omega

/-- Settles O33: the row fixes the selector alone, and the wrapped sum fits in 16 bits. -/
theorem jumpV0WrapsAt4096 : Obligations.JumpV0WrapsAt4096 :=
  ⟨jumpV0_selectedBy, fun nnn s => ⟨_, exec_jumpV0 nnn s, rfl, toNat_ofNat_mod_memSize _⟩⟩

end Sys2Proof.Machine
end

section
/-! SUPPORT. Proofs of the statements about the register loads and the logic (42_alu.md): the rows of R73 they belong
to, the one register each writes, and what an instruction that writes one register does to the others. -/

namespace Sys2Proof.Machine

/-- An instruction of format XKK whose row fixes the selector `c` alone is selected by that row, when it encodes with
that selector and the decoder answers it in that selector's group (R73, R79). -/
theorem selectedBy_immediate_row {c : Nibble} {f : Reg → Byte → Instr}
    (henc : ∀ x kk, encode (f x kk) = wordXKK c x kk)
    (hdec : ∀ x y n, decodeNibbles c x y n = .instr (f x (kkOf y n))) :
    SelectedBy 0xF000 (wordOf c 0x0 0x0 0x0) fun w => f (fieldX w) (fieldKK w) := by
  refine selectedBy_selector_row (fun w => ?_) fun w h => ?_
  · rw [henc, wordXKK, fieldC_wordOf]
  · rw [decode, h, hdec, fieldKK_eq]

/-- The words of 6xkk (R73, R131). -/
theorem loadImm_selectedBy : SelectedBy 0xF000 0x6000 fun w => .loadImm (fieldX w) (fieldKK w) :=
  selectedBy_immediate_row (c := 0x6) (fun _ _ => rfl) fun _ _ _ => rfl

/-- The words of 7xkk (R73, R132). -/
theorem addImm_selectedBy : SelectedBy 0xF000 0x7000 fun w => .addImm (fieldX w) (fieldKK w) :=
  selectedBy_immediate_row (c := 0x7) (fun _ _ => rfl) fun _ _ _ => rfl

/-- A word matches a row that fixes the selector and the last digit exactly when both digits are the row's (R73). -/
theorem and_low_digit_mask_eq_iff (w : Word) (c n : Nibble) :
    w &&& 0xF00F = wordOf c 0x0 0x0 n ↔ fieldC w = c ∧ fieldN w = n := by
  rw [← wordOf_fields w, Laws.EncodeMatches.low_digit_row, wordOf_inj]
  simp

/-- Every word of a row that fixes the selector and the last digit decodes as the decoder answers those two digits
(R73). -/
theorem encodedBy_low_digit_row {c n : Nibble} {f : Reg → Reg → Instr}
    (hdec : ∀ x y, decodeNibbles c x y n = .instr (f x y)) :
    EncodedBy 0xF00F (wordOf c 0x0 0x0 n) fun w => f (fieldX w) (fieldY w) := by
  intro w h
  obtain ⟨hc, hn⟩ := (and_low_digit_mask_eq_iff w c n).mp h
  rw [decode, hc, hn, hdec]

/-- The words of 8xy0 (R73, R133). -/
theorem move_encodedBy : EncodedBy 0xF00F 0x8000 fun w => .move (fieldX w) (fieldY w) :=
  encodedBy_low_digit_row (c := 0x8) (n := 0x0) fun _ _ => rfl

/-- The words of 8xy1 (R73, R134). -/
theorem orReg_encodedBy : EncodedBy 0xF00F 0x8001 fun w => .orReg (fieldX w) (fieldY w) :=
  encodedBy_low_digit_row (c := 0x8) (n := 0x1) fun _ _ => rfl

/-- The words of 8xy2 (R73, R135). -/
theorem andReg_encodedBy : EncodedBy 0xF00F 0x8002 fun w => .andReg (fieldX w) (fieldY w) :=
  encodedBy_low_digit_row (c := 0x8) (n := 0x2) fun _ _ => rfl

/-- The words of 8xy3 (R73, R136). -/
theorem xorReg_encodedBy : EncodedBy 0xF00F 0x8003 fun w => .xorReg (fieldX w) (fieldY w) :=
  encodedBy_low_digit_row (c := 0x8) (n := 0x3) fun _ _ => rfl

/-- 6xkk only sets `V[x]` (R131). -/
theorem exec_loadImm (x : Reg) (kk : Byte) (s : State) : exec (.loadImm x kk) s = .next (s.setV x kk) := rfl

/-- 7xkk only sets `V[x]` (R132). -/
theorem exec_addImm (x : Reg) (kk : Byte) (s : State) :
    exec (.addImm x kk) s = .next (s.setV x (s.getV x + kk)) := rfl

/-- 8xy0 only sets `V[x]` (R133). -/
theorem exec_move (x y : Reg) (s : State) : exec (.move x y) s = .next (s.setV x (s.getV y)) := rfl

/-- 8xy1 only sets `V[x]` (R134). -/
theorem exec_orReg (x y : Reg) (s : State) :
    exec (.orReg x y) s = .next (s.setV x (s.getV x ||| s.getV y)) := rfl

/-- 8xy2 only sets `V[x]` (R135). -/
theorem exec_andReg (x y : Reg) (s : State) :
    exec (.andReg x y) s = .next (s.setV x (s.getV x &&& s.getV y)) := rfl

/-- 8xy3 only sets `V[x]` (R136). -/
theorem exec_xorReg (x y : Reg) (s : State) :
    exec (.xorReg x y) s = .next (s.setV x (s.getV x ^^^ s.getV y)) := rfl

/-- Setting a register changes the register file and nothing else. -/
theorem State.setV_frame (s : State) (x : Reg) (v : Byte) : s.setV x v = { s with V := (s.setV x v).V } := rfl

/-- A read of `V[y]` after `V[x] <- v`, as a number. -/
theorem State.getV_setV_toNat (s : State) (x y : Reg) (v : Byte) :
    ((s.setV x v).getV y).toNat = if y = x then v.toNat else (s.getV y).toNat := by
  rw [State.getV_setV, apply_ite BitVec.toNat]

/-- An instruction that only sets `V[x]`, to a byte known bit by bit, keeps every other register and everything else. -/
theorem exec_setV_bits {i : Instr} {s : State} {x : Reg} {v : Byte} {bit : Nat → Bool}
    (hexec : exec i s = .next (s.setV x v)) (hbit : ∀ b, v.getLsbD b = bit b) :
    ∃ t, exec i s = .next t ∧ t = { s with V := t.V } ∧ (∀ z, z ≠ x → t.getV z = s.getV z) ∧
      ∀ b, (t.getV x).getLsbD b = bit b := by
  refine ⟨s.setV x v, hexec, s.setV_frame x v, fun z hz => s.getV_setV_ne v hz, fun b => ?_⟩
  rw [State.getV_setV_same, hbit]

/-- Settles O39: the row fixes the selector alone, and the one write is of `V[x]`. -/
theorem loadImmediateSetsRegister : Obligations.LoadImmediateSetsRegister :=
  ⟨loadImm_selectedBy, fun x kk s =>
    ⟨s.setV x kk, exec_loadImm x kk s, s.setV_frame x kk, fun z => s.getV_setV_toNat x z kk⟩⟩

/-- Settles O40: the row fixes the selector alone, the one write is of `V[x]`, and addition of bytes wraps at 256. -/
theorem addImmediateWrapsWithoutFlag : Obligations.AddImmediateWrapsWithoutFlag := by
  refine ⟨addImm_selectedBy, fun x kk s => ⟨_, exec_addImm x kk s, s.setV_frame x _, fun z => ?_⟩⟩
  have wraps : (s.getV x + kk).toNat = ((s.getV x).toNat + kk.toNat) % 256 := BitVec.toNat_add ..
  rw [State.getV_setV_toNat, wraps]

/-- Settles O41: the rows fix the selector and the last digit; each instruction's one write is of `V[x]`, and the
library gives the bits of an OR, an AND and an XOR. -/
theorem moveAndLogicSetOnlyResult : Obligations.MoveAndLogicSetOnlyResult := by
  refine ⟨⟨move_encodedBy, orReg_encodedBy, andReg_encodedBy, xorReg_encodedBy⟩,
    fun x y s => ⟨?move, ?or, ?and, ?xor⟩⟩
  case move => exact ⟨_, exec_move x y s, s.setV_frame x _, fun z => s.getV_setV x z _⟩
  case or => exact exec_setV_bits (exec_orReg x y s) fun _ => BitVec.getLsbD_or
  case and => exact exec_setV_bits (exec_andReg x y s) fun _ => BitVec.getLsbD_and
  case xor => exact exec_setV_bits (exec_xorReg x y s) fun _ => BitVec.getLsbD_xor

end Sys2Proof.Machine
end

section
/-! SUPPORT. Proofs of the statements about the timer registers (44_keys_timers.md): the rows of R73 that fix the
selector and the low byte, the one field each instruction writes, and the timer phase in numbers. -/

namespace Sys2Proof.Machine

/-- A word matches a row that fixes the selector and the low byte exactly when those digits are the row's (R73). -/
theorem and_low_byte_mask_eq_iff (w : Word) (c y n : Nibble) :
    w &&& 0xF0FF = wordOf c 0x0 y n ↔ fieldC w = c ∧ fieldY w = y ∧ fieldN w = n := by
  rw [← wordOf_fields w, Laws.EncodeMatches.low_byte_row, wordOf_inj]
  simp

/-- Every word of a row that fixes the selector and the low byte decodes as the decoder answers those three digits
(R73). -/
theorem encodedBy_low_byte_row {c y n : Nibble} {f : Reg → Instr}
    (hdec : ∀ x, decodeNibbles c x y n = .instr (f x)) :
    EncodedBy 0xF0FF (wordOf c 0x0 y n) fun w => f (fieldX w) := by
  intro w h
  obtain ⟨hc, hy, hn⟩ := (and_low_byte_mask_eq_iff w c y n).mp h
  rw [decode, hc, hy, hn, hdec]

/-- The words of Fx07 (R73, R173). -/
theorem readDelay_encodedBy : EncodedBy 0xF0FF 0xF007 fun w => .readDelay (fieldX w) :=
  encodedBy_low_byte_row (c := 0xF) (y := 0x0) (n := 0x7) fun _ => rfl

/-- The words of Fx15 (R73, R176). -/
theorem writeDelay_encodedBy : EncodedBy 0xF0FF 0xF015 fun w => .writeDelay (fieldX w) :=
  encodedBy_low_byte_row (c := 0xF) (y := 0x1) (n := 0x5) fun _ => rfl

/-- The words of Fx18 (R73, R177). -/
theorem writeSound_encodedBy : EncodedBy 0xF0FF 0xF018 fun w => .writeSound (fieldX w) :=
  encodedBy_low_byte_row (c := 0xF) (y := 0x1) (n := 0x8) fun _ => rfl

/-- Fx07 only sets `V[x]` (R173). -/
theorem exec_readDelay (x : Reg) (s : State) : exec (.readDelay x) s = .next (s.setV x s.DT) := rfl

/-- Fx15 only sets `DT` (R176). -/
theorem exec_writeDelay (x : Reg) (s : State) : exec (.writeDelay x) s = .next (s.setDT (s.getV x)) := rfl

/-- Fx18 only sets `ST` (R177). -/
theorem exec_writeSound (x : Reg) (s : State) : exec (.writeSound x) s = .next (s.setST (s.getV x)) := rfl

/-- A counter the timer phase may count down, as a number (R205). -/
theorem tick_countdown_toNat (tick : Bool) (v : Byte) :
    (if tick && v != 0 then v - 1 else v).toNat = if tick = true then v.toNat - 1 else v.toNat := by
  cases tick with
  | false => rfl
  | true => exact countdown_toNat v

/-- The delay timer after the timer phase, as a number (R205). -/
theorem State.timerPhase_DT_toNat (s : State) (tick : Bool) :
    (s.timerPhase tick).DT.toNat = if tick = true then s.DT.toNat - 1 else s.DT.toNat :=
  tick_countdown_toNat tick s.DT

/-- The sound timer after the timer phase, as a number (R205). -/
theorem State.timerPhase_ST_toNat (s : State) (tick : Bool) :
    (s.timerPhase tick).ST.toNat = if tick = true then s.ST.toNat - 1 else s.ST.toNat :=
  tick_countdown_toNat tick s.ST

/-- The timer phase sets the tone only with `tick`, to whether the sound timer is above 0 (R28, R205). -/
theorem State.timerPhase_tone_eq_decide (s : State) (tick : Bool) :
    (s.timerPhase tick).tone = if tick = true then decide (0 < s.ST.toNat) else s.tone := by
  rw [State.timerPhase_tone, bne_zero]

/-- A service that finds the sound timer above 0 leaves the tone on (R205). -/
theorem State.service_tone_on {s : State} (h : 0 < s.ST.toNat) : (s.timerPhase true).tone = true :=
  (s.timerPhase_tone_eq_decide true).trans (decide_eq_true h)

/-- A service that finds the sound timer at 0 leaves the tone off (R205). -/
theorem State.service_tone_off {s : State} (h : s.ST.toNat = 0) : (s.timerPhase true).tone = false :=
  (s.timerPhase_tone_eq_decide true).trans (decide_eq_false h.not_gt)

/-- Settles O52: the row fixes the selector and the low byte, the one write is of `V[x]`, and the timer phase, which
ends the cycle, keeps the registers. -/
theorem readDelayGivesTimerBeforePhase : Obligations.ReadDelayGivesTimerBeforePhase := by
  refine ⟨readDelay_encodedBy,
    fun x s => ⟨_, exec_readDelay x s, s.setV_frame x s.DT, fun z => s.getV_setV x z s.DT⟩,
    fun x s inp hm hr hd => ⟨_, step_next_of_exec hm hr hd (exec_readDelay ..), ?value, ?countdown⟩⟩
  case value =>
    rw [State.timerPhase_getV, State.getV_setV_same]
    simp
  case countdown =>
    rw [State.timerPhase_DT_toNat]
    simp

/-- Settles O53: the row fixes the selector and the low byte, the one write is of `DT`, and the timer phase, which ends
the cycle, counts the new value down. -/
theorem writeDelaySetsTimer : Obligations.WriteDelaySetsTimer := by
  refine ⟨writeDelay_encodedBy, exec_writeDelay,
    fun x s inp hm hr hd => ⟨_, step_next_of_exec hm hr hd (exec_writeDelay ..), ?_⟩⟩
  rw [State.timerPhase_DT_toNat]
  simp

/-- Settles O54: the row fixes the selector and the low byte, the one write is of `ST`, and only a timer phase with
`tick` sets the tone, from the sound timer it finds. -/
theorem writeSoundDrivesToneOnlyAtService : Obligations.WriteSoundDrivesToneOnlyAtService := by
  refine ⟨writeSound_encodedBy,
    fun x s => ⟨s.setST (s.getV x), exec_writeSound x s, rfl, fun zero => ⟨rfl, ?off_at_zero⟩,
      fun one => ⟨?on_at_one, ?off_after_one⟩⟩,
    fun x s inp hm hr hd => ⟨_, step_next_of_exec hm hr hd (exec_writeSound ..), ?countdown, ?tone⟩⟩
  case off_at_zero => exact State.service_tone_off zero
  case on_at_one => exact State.service_tone_on one.ge
  case off_after_one =>
    refine State.service_tone_off ?_
    rw [State.timerPhase_ST_toNat, State.setST_ST, one]
    rfl
  case countdown =>
    rw [State.timerPhase_ST_toNat]
    simp
  case tone =>
    rw [State.timerPhase_tone_eq_decide]
    simp

end Sys2Proof.Machine
end

section
/-! SUPPORT. Proofs of the statements about the encoding (30_encoding.md): decoder and encoder undo each other, the
decoder is the opcode table, and the assembler gives every instruction's line its word. -/

namespace Sys2Proof.Machine

/-! ### Decoder and encoder -/

/-- A word of format NNN decodes to what the decoder answers in its selector's group (R79). -/
theorem decode_wordNNN {c : Nibble} {f : BitVec 12 → Instr}
    (hdec : ∀ x y n, decodeNibbles c x y n = .instr (f (nnnOf x y n))) (nnn : BitVec 12) :
    decode (wordNNN c nnn) = .instr (f nnn) := by
  rw [wordNNN, decode_wordOf, hdec, nnnOf_digits]

/-- A word of format XKK decodes to what the decoder answers in its selector's group (R79). -/
theorem decode_wordXKK {c : Nibble} {f : Reg → Byte → Instr}
    (hdec : ∀ x y n, decodeNibbles c x y n = .instr (f x (kkOf y n))) (x : Reg) (kk : Byte) :
    decode (wordXKK c x kk) = .instr (f x kk) := by
  rw [wordXKK, decode_wordOf, hdec, kkOf_digits]

/-- Settles O1, format by format: a field is the word of its digits, and the decoder compares literal digits only. -/
theorem encodeThenDecodeIsIdentity : Obligations.EncodeThenDecodeIsIdentity := by
  intro i
  cases i with
  | jump nnn | call nnn | loadIndex nnn | jumpV0 nnn => exact decode_wordNNN (fun _ _ _ => rfl) nnn
  | skipEqImm x kk | skipNeImm x kk | loadImm x kk | addImm x kk | random x kk =>
    exact decode_wordXKK (fun _ _ _ => rfl) x kk
  | _ => exact decode_wordOf ..

/-- A word as one of format NNN: its selector and its low three digits (R71). -/
theorem wordNNN_nnnOf (c x y n : Nibble) : wordNNN c (nnnOf x y n) = wordOf c x y n := by simp [wordNNN]

/-- A word as one of format XKK: its selector, its `x` and its low byte (R71). -/
theorem wordXKK_kkOf (c x y n : Nibble) : wordXKK c x (kkOf y n) = wordOf c x y n := by simp [wordXKK]

/-- In group 0 of R76 both instructions encode to the word decoded. -/
theorem encode_of_group_0 {x y n : Nibble} {i : Instr} (h : decodeNibbles 0x0 x y n = .instr i) :
    encode i = wordOf 0x0 x y n := by
  change (if _ then _ else if _ then _ else _) = _ at h
  split at h
  case isTrue digits => obtain ⟨rfl, rfl, rfl⟩ := digits; cases h; rfl
  split at h
  case isTrue digits => obtain ⟨rfl, rfl, rfl⟩ := digits; cases h; rfl
  cases h

/-- In a group of R76 whose one row fixes the last digit, that row's instruction encodes to the word decoded. -/
theorem encode_of_last_digit_group {c x y n : Nibble} {i j : Instr} {d : Decoded}
    (henc : encode j = wordOf c x y 0x0) (hd : d ≠ .instr i)
    (h : (if n = 0x0 then Decoded.instr j else d) = .instr i) : encode i = wordOf c x y n := by
  split at h
  case isTrue digit => subst digit; cases h; exact henc
  exact absurd h hd

/-- In group 8 of R76 the last digit selects the row, and its instruction encodes to the word decoded. -/
theorem encode_of_group_8 {x y n : Nibble} {i : Instr} (h : decodeNibbles 0x8 x y n = .instr i) :
    encode i = wordOf 0x8 x y n := by
  rcases nibble_cases n with
    rfl | rfl | rfl | rfl | rfl | rfl | rfl | rfl | rfl | rfl | rfl | rfl | rfl | rfl | rfl | rfl
  all_goals
    cases h
  all_goals rfl

/-- In group E of R76 both instructions encode to the word decoded. -/
theorem encode_of_group_E {x y n : Nibble} {i : Instr} (h : decodeNibbles 0xE x y n = .instr i) :
    encode i = wordOf 0xE x y n := by
  change (if _ then _ else if _ then _ else _) = _ at h
  split at h
  case isTrue digits => obtain ⟨rfl, rfl⟩ := digits; cases h; rfl
  split at h
  case isTrue digits => obtain ⟨rfl, rfl⟩ := digits; cases h; rfl
  cases h

/-- A byte is the literal of its value. -/
theorem byte_eq_ofNat {b : Byte} {k : Nat} (h : b.toNat = k) : b = BitVec.ofNat 8 k := by
  rw [← h, BitVec.ofNat_toNat, BitVec.setWidth_eq]

/-- In group F of R76 the low byte selects the row, and its instruction encodes to the word decoded. -/
theorem encode_of_group_F {x y n : Nibble} {i : Instr} (h : decodeNibbles 0xF x y n = .instr i) :
    encode i = wordOf 0xF x y n := by
  rw [← wordXKK_kkOf]
  simp only [decodeNibbles, BitVec.reduceToNat] at h
  split at h
  all_goals cases h
  all_goals
    rename_i lowByte
    rw [byte_eq_ofNat lowByte]
    rfl

/-- The word of an instruction the decoder answers is the word decoded, group by group of R76. -/
theorem encode_of_decodeNibbles {c x y n : Nibble} {i : Instr} (h : decodeNibbles c x y n = .instr i) :
    encode i = wordOf c x y n := by
  rcases nibble_cases c with
    rfl | rfl | rfl | rfl | rfl | rfl | rfl | rfl | rfl | rfl | rfl | rfl | rfl | rfl | rfl | rfl
  · exact encode_of_group_0 h
  · cases h; exact wordNNN_nnnOf ..
  · cases h; exact wordNNN_nnnOf ..
  · cases h; exact wordXKK_kkOf ..
  · cases h; exact wordXKK_kkOf ..
  · exact encode_of_last_digit_group rfl Decoded.noConfusion h
  · cases h; exact wordXKK_kkOf ..
  · cases h; exact wordXKK_kkOf ..
  · exact encode_of_group_8 h
  · exact encode_of_last_digit_group rfl Decoded.noConfusion h
  · cases h; exact wordNNN_nnnOf ..
  · cases h; exact wordNNN_nnnOf ..
  · cases h; exact wordXKK_kkOf ..
  · cases h; rfl
  · exact encode_of_group_E h
  · exact encode_of_group_F h

/-- Settles O2: the decoder answers an instruction only where the instruction's digits are the word's, and a word is its
four digits. -/
theorem decodeThenEncodeIsIdentity : Obligations.DecodeThenEncodeIsIdentity := by
  intro w i h
  rw [encode_of_decodeNibbles h, wordOf_fields]

/-- A word decodes to an instruction exactly when it is the instruction's word (R73, D13). -/
theorem decode_eq_instr_iff {w : Word} {i : Instr} : decode w = .instr i ↔ encode i = w :=
  ⟨decodeThenEncodeIsIdentity w i, fun h => h ▸ encodeThenDecodeIsIdentity i⟩

/-! ### The opcode table -/

/-- The word of an instruction matches the instruction's row (R73). -/
theorem encode_matches_row : ∀ i : Instr, encode i &&& i.mnemonic.mask = i.mnemonic.pattern
  | .clearDisplay => Laws.EncodeMatches.clearDisplay
  | .ret => Laws.EncodeMatches.ret
  | .jump nnn => Laws.EncodeMatches.jump nnn
  | .call nnn => Laws.EncodeMatches.call nnn
  | .skipEqImm x kk => Laws.EncodeMatches.skipEqImm x kk
  | .skipNeImm x kk => Laws.EncodeMatches.skipNeImm x kk
  | .skipEqReg x y => Laws.EncodeMatches.skipEqReg x y
  | .loadImm x kk => Laws.EncodeMatches.loadImm x kk
  | .addImm x kk => Laws.EncodeMatches.addImm x kk
  | .move x y => Laws.EncodeMatches.move x y
  | .orReg x y => Laws.EncodeMatches.orReg x y
  | .andReg x y => Laws.EncodeMatches.andReg x y
  | .xorReg x y => Laws.EncodeMatches.xorReg x y
  | .addCarry x y => Laws.EncodeMatches.addCarry x y
  | .sub x y => Laws.EncodeMatches.sub x y
  | .shiftRight x y => Laws.EncodeMatches.shiftRight x y
  | .subReversed x y => Laws.EncodeMatches.subReversed x y
  | .shiftLeft x y => Laws.EncodeMatches.shiftLeft x y
  | .skipNeReg x y => Laws.EncodeMatches.skipNeReg x y
  | .loadIndex nnn => Laws.EncodeMatches.loadIndex nnn
  | .jumpV0 nnn => Laws.EncodeMatches.jumpV0 nnn
  | .random x kk => Laws.EncodeMatches.random x kk
  | .draw x y n => Laws.EncodeMatches.draw x y n
  | .skipIfKey x => Laws.EncodeMatches.skipIfKey x
  | .skipIfNotKey x => Laws.EncodeMatches.skipIfNotKey x
  | .readDelay x => Laws.EncodeMatches.readDelay x
  | .waitKey x => Laws.EncodeMatches.waitKey x
  | .writeDelay x => Laws.EncodeMatches.writeDelay x
  | .writeSound x => Laws.EncodeMatches.writeSound x
  | .addIndex x => Laws.EncodeMatches.addIndex x
  | .fontAddress x => Laws.EncodeMatches.fontAddress x
  | .bcd x => Laws.EncodeMatches.bcd x
  | .dump x => Laws.EncodeMatches.dump x
  | .load x => Laws.EncodeMatches.load x

/-- A word that matches a row of mask 0xF000 has the row's selector. -/
theorem fieldC_of_selector_row {w p : Word} (h : w &&& 0xF000 = p) : fieldC w = fieldC p := by
  rw [← h, ← wordOf_fields w, Laws.EncodeMatches.selector_row]
  simp

/-- A word that matches a row of mask 0xF00F has the row's selector and last digit. -/
theorem fields_of_low_digit_row {w p : Word} (h : w &&& 0xF00F = p) :
    fieldC w = fieldC p ∧ fieldN w = fieldN p := by
  rw [← h, ← wordOf_fields w, Laws.EncodeMatches.low_digit_row]
  simp

/-- A word that matches a row of mask 0xF0FF has the row's selector and last two digits. -/
theorem fields_of_low_byte_row {w p : Word} (h : w &&& 0xF0FF = p) :
    fieldC w = fieldC p ∧ fieldY w = fieldY p ∧ fieldN w = fieldN p := by
  rw [← h, ← wordOf_fields w, Laws.EncodeMatches.low_byte_row]
  simp

/-- The word decodes to an instruction of row `m`. -/
abbrev DecodesToRow (w : Word) (m : Mnemonic) : Prop := ∃ i : Instr, decode w = .instr i ∧ i.mnemonic = m

/-- A word that matches a row of mask 0xF000 decodes to the row the decoder answers for the pattern's selector. -/
theorem decodesToRow_of_selector_row {w p : Word} {m : Mnemonic}
    (hdec : ∀ x y n, ∃ i, decodeNibbles (fieldC p) x y n = .instr i ∧ i.mnemonic = m)
    (h : w &&& 0xF000 = p) : DecodesToRow w m := by
  rw [DecodesToRow, decode, fieldC_of_selector_row h]
  exact hdec ..

/-- A word that matches a row of mask 0xF00F decodes to the row the decoder answers for the pattern's digits. -/
theorem decodesToRow_of_low_digit_row {w p : Word} {m : Mnemonic}
    (hdec : ∀ x y, ∃ i, decodeNibbles (fieldC p) x y (fieldN p) = .instr i ∧ i.mnemonic = m)
    (h : w &&& 0xF00F = p) : DecodesToRow w m := by
  obtain ⟨hc, hn⟩ := fields_of_low_digit_row h
  rw [DecodesToRow, decode, hc, hn]
  exact hdec ..

/-- A word that matches a row of mask 0xF0FF decodes to the row the decoder answers for the pattern's digits. -/
theorem decodesToRow_of_low_byte_row {w p : Word} {m : Mnemonic}
    (hdec : ∀ x, ∃ i, decodeNibbles (fieldC p) x (fieldY p) (fieldN p) = .instr i ∧ i.mnemonic = m)
    (h : w &&& 0xF0FF = p) : DecodesToRow w m := by
  obtain ⟨hc, hy, hn⟩ := fields_of_low_byte_row h
  rw [DecodesToRow, decode, hc, hy, hn]
  exact hdec ..

/-- A word that matches a row of mask 0xFFFF is the row's pattern. -/
theorem eq_of_whole_word_row {w p : Word} (h : w &&& 0xFFFF = p) : w = p :=
  (BitVec.and_allOnes (x := w)).symm.trans h

/-- A word that matches a row decodes to an instruction of that row (R73). -/
theorem decodesToRow_of_matches {w : Word} {m : Mnemonic} (h : w &&& m.mask = m.pattern) : DecodesToRow w m := by
  cases m with
  | clearDisplay | ret => exact eq_of_whole_word_row h ▸ ⟨_, rfl, rfl⟩
  | jump | call | skipEqImm | skipNeImm | loadImm | addImm | loadIndex | jumpV0 | random | draw =>
    exact decodesToRow_of_selector_row (fun _ _ _ => ⟨_, rfl, rfl⟩) h
  | skipEqReg | move | orReg | andReg | xorReg | addCarry | sub | shiftRight | subReversed | shiftLeft | skipNeReg =>
    exact decodesToRow_of_low_digit_row (fun _ _ => ⟨_, rfl, rfl⟩) h
  | skipIfKey | skipIfNotKey | readDelay | waitKey | writeDelay | writeSound | addIndex | fontAddress | bcd | dump
  | load => exact decodesToRow_of_low_byte_row (fun _ => ⟨_, rfl, rfl⟩) h

/-- Settles O3: a decoded instruction's word, which is the word decoded, matches the instruction's row; and the digits
a row fixes are those the decoder compares. -/
theorem decodeFollowsOpcodeTable : Obligations.DecodeFollowsOpcodeTable := by
  refine fun w m => ⟨?_, decodesToRow_of_matches⟩
  rintro ⟨i, hi, rfl⟩
  rw [← decode_eq_instr_iff.mp hi]
  exact encode_matches_row i

/-- Settles O4: two rows a word matches are both the row of the one instruction it decodes to. -/
theorem noWordMatchesTwoRows : Obligations.NoWordMatchesTwoRows := by
  intro w m m' h h'
  obtain ⟨i, hi, rfl⟩ := decodesToRow_of_matches h
  obtain ⟨i', hi', rfl⟩ := decodesToRow_of_matches h'
  rw [Decoded.instr.inj (hi.symm.trans hi')]

/-- The six groups with no-op words, by the selector's value (R76). -/
theorem mem_noop_groups_iff (c : Nibble) :
    c ∈ ([0x0, 0x5, 0x8, 0x9, 0xE, 0xF] : List Nibble) ↔ c.toNat ∈ [0x0, 0x5, 0x8, 0x9, 0xE, 0xF] := by
  revert c
  decide

/-- An unmatched word carries its own selector, which is that of a group with no-op words (R74, R76). -/
theorem selector_of_unmatched {c x y n d : Nibble} (h : decodeNibbles c x y n = .unmatched d) :
    d = c ∧ d ∈ ([0x0, 0x5, 0x8, 0x9, 0xE, 0xF] : List Nibble) := by
  unfold decodeNibbles at h
  repeat' split at h
  all_goals cases h
  -- What is left, in each arm that answers the no-op: the arm's condition on `c` puts it in the list.
  all_goals
    refine ⟨rfl, (mem_noop_groups_iff c).mpr ?_⟩
    have := c.isLt
    simp only [imp_false, List.mem_cons] at *
    omega

/-- No row matches a word exactly when it is unmatched (R74). -/
theorem no_row_iff_unmatched {w : Word} :
    (∀ m : Mnemonic, w &&& m.mask ≠ m.pattern) ↔ decode w = .unmatched (fieldC w) := by
  constructor
  · intro noRow
    cases hd : decode w with
    | instr i => exact absurd ((decodeFollowsOpcodeTable w i.mnemonic).mp ⟨i, hd, rfl⟩) (noRow _)
    | unmatched c => rw [(selector_of_unmatched hd).1]
  · intro hd m h
    obtain ⟨i, hi, -⟩ := decodesToRow_of_matches h
    exact Decoded.noConfusion (hi.symm.trans hd)

/-- Settles O5: a word that decodes matches its instruction's row, and a no-op arm stands only in the six groups. -/
theorem unmatchedWordsMatchNoRow : Obligations.UnmatchedWordsMatchNoRow :=
  fun _ => ⟨no_row_iff_unmatched.symm, fun _ => selector_of_unmatched⟩

/-- Settles O6: the fifteen words evaluated. -/
theorem sampleWordsDecode : Obligations.SampleWordsDecode := by
  unfold Obligations.SampleWordsDecode
  decide

/-! ### The assembler -/

/-- A word as a number, from its digits (R71). -/
theorem wordOf_toNat (c x y n : Nibble) :
    (wordOf c x y n).toNat = c.toNat * 0x1000 + x.toNat * 0x100 + y.toNat * 0x10 + n.toNat := by
  have append : ∀ (p : Nat) (q : Nibble), p <<< 4 ||| q.toNat = p * 16 + q.toNat := fun p q => by
    rw [← Nat.shiftLeft_add_eq_or_of_lt q.isLt, Nat.shiftLeft_eq]
  simp only [wordOf, BitVec.toNat_append, append]
  omega

/-- A word of format NNN as a number (R71). -/
theorem wordNNN_toNat (c : Nibble) (nnn : BitVec 12) : (wordNNN c nnn).toNat = c.toNat * 0x1000 + nnn.toNat := by
  have := nnn.isLt
  simp only [wordNNN, wordOf_toNat, BitVec.extractLsb'_toNat, Nat.shiftRight_eq_div_pow]
  omega

/-- A word of format XKK as a number (R71). -/
theorem wordXKK_toNat (c x : Nibble) (kk : Byte) :
    (wordXKK c x kk).toNat = c.toNat * 0x1000 + x.toNat * 0x100 + kk.toNat := by
  have := kk.isLt
  simp only [wordXKK, wordOf_toNat, BitVec.extractLsb'_toNat, Nat.shiftRight_eq_div_pow]
  omega

/-- A line that passes the check assembles to the word that is the row's pattern with the operands in their fields
(R78). -/
theorem assemble_eq {l : AsmLine} {w : Word} (hcheck : l.check = none)
    (hword : l.mnemonic.pattern.toNat + operandBits l.operands = w.toNat) : l.assemble = some w := by
  simp only [AsmLine.assemble, hcheck, Option.some.injEq]
  apply BitVec.eq_of_toNat_eq
  have := w.isLt
  simp only [BitVec.toNat_add, BitVec.toNat_ofNat]
  omega

/-- What the assembler answers for a line of format NNN whose row has selector `c`. -/
theorem assemble_NNN {m : Mnemonic} {c : Nibble} (hf : m.format = .NNN) (hp : m.pattern = wordOf c 0x0 0x0 0x0)
    (nnn : BitVec 12) : AsmLine.assemble ⟨m, [.imm nnn.toNat]⟩ = some (wordNNN c nnn) := by
  apply assemble_eq
  · simp [AsmLine.check, hf, nnn.isLt]
  · simp [hp, wordOf_toNat, wordNNN_toNat, operandBits]

/-- What the assembler answers for a line of format XKK whose row has selector `c`. -/
theorem assemble_XKK {m : Mnemonic} {c : Nibble} (hf : m.format = .XKK) (hp : m.pattern = wordOf c 0x0 0x0 0x0)
    (x : Reg) (kk : Byte) : AsmLine.assemble ⟨m, [.v x.toNat, .imm kk.toNat]⟩ = some (wordXKK c x kk) := by
  apply assemble_eq
  · simp [AsmLine.check, hf, x.isLt, kk.isLt]
  · simp [hp, wordOf_toNat, wordXKK_toNat, operandBits, Nat.add_assoc]

/-- What the assembler answers for a line of format XY whose row has selector `c` and last digit `n`. -/
theorem assemble_XY {m : Mnemonic} {c n : Nibble} (hf : m.format = .XY) (hp : m.pattern = wordOf c 0x0 0x0 n)
    (x y : Reg) : AsmLine.assemble ⟨m, [.v x.toNat, .v y.toNat]⟩ = some (wordOf c x y n) := by
  apply assemble_eq
  · simp [AsmLine.check, hf, x.isLt, y.isLt]
  · simp only [hp, wordOf_toNat, operandBits, BitVec.reduceToNat]
    omega

/-- What the assembler answers for a line of format X whose row has selector `c` and last digits `y`, `n`. -/
theorem assemble_X {m : Mnemonic} {c y n : Nibble} (hf : m.format = .X) (hp : m.pattern = wordOf c 0x0 y n)
    (x : Reg) : AsmLine.assemble ⟨m, [.v x.toNat]⟩ = some (wordOf c x y n) := by
  apply assemble_eq
  · simp [AsmLine.check, hf, x.isLt]
  · simp only [hp, wordOf_toNat, operandBits, BitVec.reduceToNat]
    omega

/-- What the assembler answers for a line of Dxyn. -/
theorem assemble_draw (x y : Reg) (n : Nibble) :
    AsmLine.assemble ⟨.draw, [.v x.toNat, .v y.toNat, .imm n.toNat]⟩ = some (wordOf 0xD x y n) := by
  apply assemble_eq
  · simp [AsmLine.check, Mnemonic.format, x.isLt, y.isLt, n.isLt]
  · simp only [Mnemonic.pattern, wordOf_toNat, operandBits, BitVec.reduceToNat]
    omega

/-- The line of an instruction assembles to the instruction's word (R78). -/
theorem assemble_line (i : Instr) : i.line.assemble = some (encode i) := by
  cases i with
  | clearDisplay | ret => rfl
  | jump nnn | call nnn | loadIndex nnn | jumpV0 nnn => exact assemble_NNN rfl rfl nnn
  | skipEqImm x kk | skipNeImm x kk | loadImm x kk | addImm x kk | random x kk => exact assemble_XKK rfl rfl x kk
  | skipEqReg x y | move x y | orReg x y | andReg x y | xorReg x y | addCarry x y | sub x y | shiftRight x y
  | subReversed x y | shiftLeft x y | skipNeReg x y => exact assemble_XY rfl rfl x y
  | draw x y n => exact assemble_draw x y n
  | skipIfKey x | skipIfNotKey x | readDelay x | waitKey x | writeDelay x | writeSound x | addIndex x | fontAddress x
  | bcd x | dump x | load x => exact assemble_X rfl rfl x

/-- The operands a format takes, each in the range of its field (R78, R79). -/
def Format.Takes : Format → List Operand → Prop
  | .Z, ops => ops = []
  | .NNN, ops => ∃ nnn : BitVec 12, ops = [.imm nnn.toNat]
  | .XKK, ops => ∃ (x : Reg) (kk : Byte), ops = [.v x.toNat, .imm kk.toNat]
  | .XY, ops => ∃ x y : Reg, ops = [.v x.toNat, .v y.toNat]
  | .XYN, ops => ∃ (x y : Reg) (n : Nibble), ops = [.v x.toNat, .v y.toNat, .imm n.toNat]
  | .X, ops => ∃ x : Reg, ops = [.v x.toNat]

/-- A number in a field's range is the value of a field. -/
theorem exists_field {v : Nat} (width : Nat) (h : v < 2 ^ width) : ∃ f : BitVec width, f.toNat = v :=
  ⟨BitVec.ofNatLT v h, rfl⟩

/-- A well-formed line has operands its row's format takes (R78). -/
theorem takes_of_check {m : Mnemonic} {ops : List Operand} (h : AsmLine.check ⟨m, ops⟩ = none) :
    Format.Takes m.format ops := by
  unfold AsmLine.check at h
  dsimp only at h
  generalize m.format = f at h ⊢
  split at h
  · exact rfl
  · split at h
    case isTrue ha =>
      obtain ⟨nnn, rfl⟩ := exists_field 12 ha
      exact ⟨nnn, rfl⟩
    cases h
  · split at h
    · cases h
    split at h
    case isTrue hx hk =>
      obtain ⟨x, rfl⟩ := exists_field 4 (Nat.not_le.mp hx)
      obtain ⟨kk, rfl⟩ := exists_field 8 hk
      exact ⟨x, kk, rfl⟩
    cases h
  · split at h
    case isTrue hxy =>
      obtain ⟨x, rfl⟩ := exists_field 4 hxy.1
      obtain ⟨y, rfl⟩ := exists_field 4 hxy.2
      exact ⟨x, y, rfl⟩
    cases h
  · split at h
    · cases h
    split at h
    case isTrue hxy hn =>
      obtain ⟨hx, hy⟩ := not_or.mp hxy
      obtain ⟨x, rfl⟩ := exists_field 4 (Nat.not_le.mp hx)
      obtain ⟨y, rfl⟩ := exists_field 4 (Nat.not_le.mp hy)
      obtain ⟨n, rfl⟩ := exists_field 4 hn
      exact ⟨x, y, n, rfl⟩
    cases h
  · split at h
    case isTrue hx =>
      obtain ⟨x, rfl⟩ := exists_field 4 hx
      exact ⟨x, rfl⟩
    cases h
  · cases h

/-- Operands a row's format takes make the line of an instruction of that row (R78). -/
theorem exists_instr_of_takes : ∀ (m : Mnemonic) (ops : List Operand), Format.Takes m.format ops →
    ∃ i : Instr, i.line = ⟨m, ops⟩
  | .clearDisplay, _, rfl => ⟨.clearDisplay, rfl⟩
  | .ret, _, rfl => ⟨.ret, rfl⟩
  | .jump, _, ⟨nnn, rfl⟩ => ⟨.jump nnn, rfl⟩
  | .call, _, ⟨nnn, rfl⟩ => ⟨.call nnn, rfl⟩
  | .skipEqImm, _, ⟨x, kk, rfl⟩ => ⟨.skipEqImm x kk, rfl⟩
  | .skipNeImm, _, ⟨x, kk, rfl⟩ => ⟨.skipNeImm x kk, rfl⟩
  | .skipEqReg, _, ⟨x, y, rfl⟩ => ⟨.skipEqReg x y, rfl⟩
  | .loadImm, _, ⟨x, kk, rfl⟩ => ⟨.loadImm x kk, rfl⟩
  | .addImm, _, ⟨x, kk, rfl⟩ => ⟨.addImm x kk, rfl⟩
  | .move, _, ⟨x, y, rfl⟩ => ⟨.move x y, rfl⟩
  | .orReg, _, ⟨x, y, rfl⟩ => ⟨.orReg x y, rfl⟩
  | .andReg, _, ⟨x, y, rfl⟩ => ⟨.andReg x y, rfl⟩
  | .xorReg, _, ⟨x, y, rfl⟩ => ⟨.xorReg x y, rfl⟩
  | .addCarry, _, ⟨x, y, rfl⟩ => ⟨.addCarry x y, rfl⟩
  | .sub, _, ⟨x, y, rfl⟩ => ⟨.sub x y, rfl⟩
  | .shiftRight, _, ⟨x, y, rfl⟩ => ⟨.shiftRight x y, rfl⟩
  | .subReversed, _, ⟨x, y, rfl⟩ => ⟨.subReversed x y, rfl⟩
  | .shiftLeft, _, ⟨x, y, rfl⟩ => ⟨.shiftLeft x y, rfl⟩
  | .skipNeReg, _, ⟨x, y, rfl⟩ => ⟨.skipNeReg x y, rfl⟩
  | .loadIndex, _, ⟨nnn, rfl⟩ => ⟨.loadIndex nnn, rfl⟩
  | .jumpV0, _, ⟨nnn, rfl⟩ => ⟨.jumpV0 nnn, rfl⟩
  | .random, _, ⟨x, kk, rfl⟩ => ⟨.random x kk, rfl⟩
  | .draw, _, ⟨x, y, n, rfl⟩ => ⟨.draw x y n, rfl⟩
  | .skipIfKey, _, ⟨x, rfl⟩ => ⟨.skipIfKey x, rfl⟩
  | .skipIfNotKey, _, ⟨x, rfl⟩ => ⟨.skipIfNotKey x, rfl⟩
  | .readDelay, _, ⟨x, rfl⟩ => ⟨.readDelay x, rfl⟩
  | .waitKey, _, ⟨x, rfl⟩ => ⟨.waitKey x, rfl⟩
  | .writeDelay, _, ⟨x, rfl⟩ => ⟨.writeDelay x, rfl⟩
  | .writeSound, _, ⟨x, rfl⟩ => ⟨.writeSound x, rfl⟩
  | .addIndex, _, ⟨x, rfl⟩ => ⟨.addIndex x, rfl⟩
  | .fontAddress, _, ⟨x, rfl⟩ => ⟨.fontAddress x, rfl⟩
  | .bcd, _, ⟨x, rfl⟩ => ⟨.bcd x, rfl⟩
  | .dump, _, ⟨x, rfl⟩ => ⟨.dump x, rfl⟩
  | .load, _, ⟨x, rfl⟩ => ⟨.load x, rfl⟩

/-- A line that assembles passed the check (R78). -/
theorem check_of_assemble {l : AsmLine} {w : Word} (h : l.assemble = some w) : l.check = none := by
  unfold AsmLine.assemble at h
  split at h
  case h_1 passed => exact passed
  cases h

/-- Settles O7: a well-formed line's operands are the fields of an instruction of its row, and an instruction's line has
its operands added into the row's pattern, which is its word. -/
theorem assemblerAcceptsExactlyInstructionLines : Obligations.AssemblerAcceptsExactlyInstructionLines := by
  refine ⟨fun l => ⟨fun ⟨w, h⟩ => ?_, fun ⟨i, h⟩ => ⟨encode i, h ▸ assemble_line i⟩⟩, assemble_line⟩
  exact exists_instr_of_takes _ _ (takes_of_check (check_of_assemble h))

end Sys2Proof.Machine
end

section
/-! SUPPORT. Proofs of the statements about the whole machine: what each instruction may change, said once over all
instructions, and what a step therefore keeps. -/

namespace Sys2Proof.Machine

/-! ### Instructions -/

/-- Fx0A with a key held stores the key (R174). -/
theorem exec_waitKey_some {x : Reg} {s : State} {k : Nibble} (h : s.inp.key = some k) :
    exec (.waitKey x) s = .next (s.setV x (k.setWidth 8)) := by
  simp [exec, execWaitKey, State.keyIn, h]

/-- Fx0A with no key enters the wait (R174). -/
theorem exec_waitKey_none {x : Reg} {s : State} (h : s.inp.key = none) :
    exec (.waitKey x) s = .next (s.setMode (.waitKey x)) := by
  simp [exec, execWaitKey, State.keyIn, h]

/-- Fx55 only stores a block (R155). -/
theorem exec_dump (x : Reg) (s : State) : exec (.dump x) s = .next (s.dumpBlock s.I (x.toNat + 1)) := by
  simp [exec, execDump, State.effAddr_zero]

/-- Fx65 only loads a block (R156). -/
theorem exec_load (x : Reg) (s : State) : exec (.load x) s = .next (s.loadBlock s.I (x.toNat + 1)) := by
  simp [exec, execLoad, State.effAddr_zero]

/-- The rows listed as writing `pc` (10_state.md §10). -/
abbrev pcWriters : List Mnemonic := [.ret, .jump, .call, .jumpV0, .skipEqImm, .skipNeImm, .skipEqReg, .skipNeReg,
  .skipIfKey, .skipIfNotKey]

/-- From `s` to `t` each element changes only where row `m` is listed as writing it (10_state.md §10). -/
def ChangesOnlyListed (m : Mnemonic) (s t : State) : Prop :=
  (t.I ≠ s.I → m ∈ ([.loadIndex, .addIndex, .fontAddress] : List Mnemonic)) ∧
  (t.pc ≠ s.pc → m ∈ pcWriters) ∧
  (t.sp ≠ s.sp → m ∈ ([.call, .ret] : List Mnemonic)) ∧
  (t.DT ≠ s.DT → m = .writeDelay) ∧
  (t.ST ≠ s.ST → m = .writeSound) ∧
  t.tone = s.tone ∧
  (t.mode ≠ s.mode → m = .waitKey) ∧
  (t.mem ≠ s.mem → m ∈ ([.call, .bcd, .dump] : List Mnemonic)) ∧
  (t.fb ≠ s.fb → m ∈ ([.clearDisplay, .draw] : List Mnemonic)) ∧
  (t.trace ≠ s.trace → m ∈ ([.clearDisplay, .draw] : List Mnemonic)) ∧
  t.par = s.par ∧ t.inp = s.inp ∧ t.requests = s.requests ∧ t.draws = s.draws

section Listed
variable (m : Mnemonic) (s : State)

theorem changesOnlyListed_V (V : Vector Byte 16) : ChangesOnlyListed m s { s with V := V } := by
  simp [ChangesOnlyListed]

theorem changesOnlyListed_pc (pc : Addr) (h : m ∈ pcWriters) :
    ChangesOnlyListed m s { s with pc := pc } := by
  simp_all [ChangesOnlyListed]

theorem changesOnlyListed_I (I : Addr) (h : m ∈ ([.loadIndex, .addIndex, .fontAddress] : List Mnemonic)) :
    ChangesOnlyListed m s { s with I := I } := by
  simp_all [ChangesOnlyListed]

theorem changesOnlyListed_mem (mem : Memory) (h : m ∈ ([.call, .bcd, .dump] : List Mnemonic)) :
    ChangesOnlyListed m s { s with mem := mem } := by
  simp_all [ChangesOnlyListed]

end Listed

/-- Every instruction answers a next state, and changes an element only where it is listed as writing it. -/
theorem exec_changesOnlyListed (i : Instr) (s : State) :
    ∃ t, exec i s = .next t ∧ ChangesOnlyListed i.mnemonic s t := by
  cases i with
  | loadImm | addImm | move | orReg | andReg | xorReg | addCarry | sub | shiftRight | subReversed | shiftLeft
  | random | readDelay => exact ⟨_, rfl, changesOnlyListed_V ..⟩
  | load x => exact ⟨_, exec_load x s, s.loadBlock_frame .. ▸ changesOnlyListed_V ..⟩
  | jump | jumpV0 | skipEqImm | skipNeImm | skipEqReg | skipNeReg | skipIfKey | skipIfNotKey =>
    exact ⟨_, rfl, changesOnlyListed_pc _ _ _ (by simp [Instr.mnemonic])⟩
  | loadIndex | addIndex | fontAddress => exact ⟨_, rfl, changesOnlyListed_I _ _ _ (by simp [Instr.mnemonic])⟩
  | bcd => exact ⟨_, rfl, changesOnlyListed_mem _ _ _ (by simp [Instr.mnemonic])⟩
  | dump x => exact ⟨_, exec_dump x s, s.dumpBlock_frame .. ▸ changesOnlyListed_mem _ _ _ (by simp [Instr.mnemonic])⟩
  | waitKey x =>
    cases hk : s.inp.key with
    | some k => exact ⟨_, exec_waitKey_some hk, changesOnlyListed_V ..⟩
    | none => exact ⟨_, exec_waitKey_none hk, by simp [ChangesOnlyListed, Instr.mnemonic]⟩
  | clearDisplay | draw | call | ret | writeDelay | writeSound =>
    exact ⟨_, rfl, by simp [ChangesOnlyListed, Instr.mnemonic]⟩

/-- Settles O23, family by family of the instructions: each answers its state with the listed elements replaced. -/
theorem elementsChangeOnlyByListedInstructions : Obligations.ElementsChangeOnlyByListedInstructions :=
  exec_changesOnlyListed

/-- What an instruction's answer may change. -/
theorem changesOnlyListed_of_exec {i : Instr} {s t : State} (h : exec i s = .next t) :
    ChangesOnlyListed i.mnemonic s t := by
  obtain ⟨t', h', listed⟩ := exec_changesOnlyListed i s
  rwa [Host.Outcome.next.inj (h.symm.trans h')]

/-! ### Registers -/

/-- A register that differs after one was set is the one set. -/
theorem eq_of_getV_setV_ne {s : State} {x z : Reg} {v : Byte} (h : (s.setV x v).getV z ≠ s.getV z) :
    (z == x) = true := by
  by_contra hne
  exact h (s.getV_setV_ne v (by simpa using hne))

/-- A register that differs after a flag write is VF (R21, D1). -/
theorem eq_of_getV_setFlag_ne {s : State} {b : Bool} {z : Reg} (h : (s.setFlag b).getV z ≠ s.getV z) : z = 15 := by
  by_contra hne
  exact h (s.getV_setV_ne _ hne)

/-- A register that differs after a flag and then a result is the result's, or VF (R22, D2). -/
theorem eq_of_getV_setFlag_setV_ne {s : State} {b : Bool} {x z : Reg} {v : Byte}
    (h : ((s.setFlag b).setV x v).getV z ≠ s.getV z) : (z == x) = true ∨ z = 15 := by
  by_cases hx : z = x
  · exact .inl (by simpa using hx)
  · rw [State.getV_setV_ne _ v hx] at h
    exact .inr (eq_of_getV_setFlag_ne h)

/-- A register that differs after a block load of `x + 1` registers is one of them (R156). -/
theorem le_of_getV_loadBlock_ne {s : State} {B : Addr} {x z : Reg}
    (h : (s.loadBlock B (x.toNat + 1)).getV z ≠ s.getV z) : z.toNat ≤ x.toNat := by
  rw [State.getV_loadBlock s B z x.isLt] at h
  by_contra hlt
  exact h (if_neg (by omega))

/-- Settles O24, family by family of the instructions: those that set one register, those that set VF and then one
register, the draw, the block load, and those that leave the register file alone. -/
theorem registersChangeOnlyAsResultOrFlag : Obligations.RegistersChangeOnlyAsResultOrFlag := by
  intro i s
  cases i with
  | loadImm | addImm | move | orReg | andReg | xorReg | random | readDelay =>
    exact ⟨_, rfl, fun z h => .inl (eq_of_getV_setV_ne h)⟩
  | addCarry | sub | shiftRight | subReversed | shiftLeft =>
    have listed : ∀ m ∈ [.addCarry, .sub, .shiftRight, .subReversed, .shiftLeft], m ∈ implicitFlagWriters := by decide
    exact ⟨_, rfl, fun z h => (eq_of_getV_setFlag_setV_ne h).imp_right (⟨·, listed _ (by simp [Instr.mnemonic])⟩)⟩
  | draw => exact ⟨_, rfl, fun z h => .inr ⟨eq_of_getV_setFlag_ne h, by simp [implicitFlagWriters, Instr.mnemonic]⟩⟩
  | load x => exact ⟨_, exec_load x s, fun z h => .inl (decide_eq_true (le_of_getV_loadBlock_ne h))⟩
  | waitKey x =>
    cases hk : s.inp.key with
    | some k => exact ⟨_, exec_waitKey_some hk, fun z h => .inl (eq_of_getV_setV_ne h)⟩
    | none => exact ⟨_, exec_waitKey_none hk, fun z h => absurd rfl h⟩
  | dump x => exact ⟨_, exec_dump x s, fun z h => absurd (s.dumpBlock_getV ..) h⟩
  | _ => exact ⟨_, rfl, fun z h => absurd rfl h⟩

/-! ### Runs -/

/-- Every step answers a next state: a run cycle because every instruction does. -/
theorem step_continues (s : State) : Continues s := by
  cases hr : s.nextRequest with
  | cycle inp =>
    cases hm : s.mode with
    | run =>
      cases hd : decode s.fetchWord with
      | instr i =>
        obtain ⟨u, hu, -⟩ := exec_changesOnlyListed i (s.sampled inp).advance
        exact ⟨_, step_next_of_exec hm hr hd hu⟩
      | unmatched c => exact ⟨_, step_next_of_unmatched hm hr hd⟩
    | waitKey x => exact ⟨_, step_next_of_wait hm hr⟩
  | service tick => exact ⟨s.takeRequest.timerPhase tick, by simp [step, transition, hr]⟩
  | reset c => exact ⟨s.takeRequest.coreReset, by simp [step, transition, hr]⟩

/-- A run of one more step is the step and then the run. -/
theorem run_succ_of_step {s t : State} (h : step s = .next t) (n : Nat) :
    Host.Core.run core (n + 1) s = Host.Core.run core n t := by
  have hstep : core.step s = .next t := h
  simp only [Host.Core.run, hstep]

/-- Settles O16: every instruction answers, so every step does, so by induction on its length every run does. -/
theorem everyStepAndRunContinues : Obligations.EveryStepAndRunContinues := by
  refine ⟨fun i s => (exec_changesOnlyListed i s).imp fun _ h => h.1, step_continues, fun n => ?_⟩
  induction n with
  | zero => exact fun s => ⟨s, rfl⟩
  | succ n ih =>
    intro s
    obtain ⟨t, ht⟩ := step_continues s
    rw [run_succ_of_step ht n]
    exact ih t

/-! ### The invariant -/

/-- The invariant speaks of memory, grid and parameters alone. -/
theorem Inv.congr {s t : State} (h : Inv s) (hmem : t.mem = s.mem) (hfb : t.fb = s.fb) (hpar : t.par = s.par) :
    Inv t := by
  rwa [Inv, hmem, hfb, hpar]

/-- Every instruction keeps the invariant: memory changes only by writes, the grid by a clear or by compositing. -/
theorem exec_inv {i : Instr} {s t : State} (he : exec i s = .next t) (h : Inv s) : Inv t := by
  obtain ⟨-, -, -, -, -, -, -, hmem, hfb, -, hpar, -⟩ := changesOnlyListed_of_exec he
  obtain ⟨memWf, fbWf, legal⟩ := h
  cases i with
  | call nnn => cases he; exact ⟨Memory.write_wf _ _ (Memory.write_wf _ _ memWf), fbWf, legal⟩
  | bcd x =>
    cases he
    exact ⟨Memory.write_wf _ _ (Memory.write_wf _ _ (Memory.write_wf _ _ memWf)), fbWf, legal⟩
  | dump x =>
    rw [exec_dump] at he
    cases he
    exact ⟨s.dumpBlock_wf _ _ memWf, s.dumpBlock_frame .. ▸ fbWf, s.dumpBlock_frame .. ▸ legal⟩
  | clearDisplay => cases he; exact ⟨memWf, Grid.blank_wf s.par, legal⟩
  | draw x y n => cases he; exact ⟨memWf, composite_wf _ fbWf, legal⟩
  | _ =>
    refine Inv.congr ⟨memWf, fbWf, legal⟩ (by_contra fun ne => ?_) (by_contra fun ne => ?_) hpar
    · simpa [Instr.mnemonic] using hmem ne
    · simpa [Instr.mnemonic] using hfb ne

/-- Settles O20: requests, inputs, `pc`, timers and the core's reset are no part of the invariant, and every instruction
keeps it. -/
theorem stepKeepsInvariant : Obligations.StepKeepsInvariant := by
  intro s t h hstep
  obtain ⟨inp, i, u, -, -, -, he, rfl⟩ | ⟨inp, c, -, -, -, rfl⟩ | ⟨inp, x, -, -, rfl⟩ | ⟨tick, -, rfl⟩ | ⟨c, -, rfl⟩ :=
    step_next_cases hstep
  case inl =>
    have fetched : Inv (s.sampled inp).advance := h.congr (by simp) (by simp) (by simp)
    exact (exec_inv he fetched).congr rfl rfl rfl
  all_goals exact h.congr (by simp) (by simp) (by simp)

/-! ### Parameters and outputs -/

/-- From `s` to `t` the parameters stay and outputs are only added (R7, R33, D30). -/
def KeepsPast (s t : State) : Prop := t.par = s.par ∧ s.trace <+: t.trace

theorem KeepsPast.trans {s t u : State} (h : KeepsPast s t) (h' : KeepsPast t u) : KeepsPast s u :=
  ⟨h'.1.trans h.1, h.2.trans h'.2⟩

/-- A change of other elements keeps parameters and outputs. -/
theorem keepsPast_of_eq {s t : State} (hpar : t.par = s.par) (htrace : t.trace = s.trace) : KeepsPast s t :=
  ⟨hpar, [], htrace ▸ List.append_nil _⟩

/-- The timer phase adds at most one output (R205). -/
theorem keepsPast_timerPhase (s : State) (tick : Bool) : KeepsPast s (s.timerPhase tick) := by
  refine ⟨rfl, ?_⟩
  rw [State.timerPhase_trace]
  split
  · exact ⟨_, rfl⟩
  · exact ⟨[], List.append_nil _⟩

/-- Every instruction keeps parameters and past outputs. -/
theorem exec_keepsPast {i : Instr} {s t : State} (he : exec i s = .next t) : KeepsPast s t := by
  obtain ⟨-, -, -, -, -, -, -, -, -, htrace, hpar, -⟩ := changesOnlyListed_of_exec he
  refine ⟨hpar, ?_⟩
  cases i with
  | clearDisplay | draw => cases he; exact ⟨_, rfl⟩
  | _ =>
    refine (keepsPast_of_eq hpar (by_contra fun ne => ?_)).2
    simpa [Instr.mnemonic] using htrace ne

/-- Settles O21: an instruction and the timer phase each keep what is past, and nothing else of a step touches it. -/
theorem stepKeepsParametersAndPastOutputs : Obligations.StepKeepsParametersAndPastOutputs := by
  intro s t hstep
  suffices past : KeepsPast s t from ⟨past.1, past.2.imp fun _ => Eq.symm⟩
  obtain ⟨inp, i, u, -, -, -, he, rfl⟩ | ⟨inp, c, -, -, -, rfl⟩ | ⟨inp, x, -, -, rfl⟩ | ⟨tick, -, rfl⟩ | ⟨c, -, rfl⟩ :=
    step_next_cases hstep
  case inl =>
    have fetched : KeepsPast s (s.sampled inp).advance := keepsPast_of_eq (by simp) (by simp)
    exact (fetched.trans (exec_keepsPast he)).trans (keepsPast_timerPhase u inp.tick)
  case inr.inr.inr.inr => exact keepsPast_of_eq (by simp) (by simp)
  all_goals exact (keepsPast_of_eq (by simp) (by simp)).trans (keepsPast_timerPhase _ _)

/-! ### The mode -/

/-- Only Fx0A has the row `waitKey`. -/
theorem eq_waitKey_of_mnemonic {i : Instr} (h : i.mnemonic = .waitKey) : ∃ x, i = .waitKey x := by
  cases i with
  | waitKey x => exact ⟨x, rfl⟩
  | _ => cases h

/-- An instruction that changes the mode is Fx0A with no key, and enters its wait (R174, D9). -/
theorem mode_of_exec {i : Instr} {s t : State} (he : exec i s = .next t) (hne : t.mode ≠ s.mode) :
    ∃ x, i = .waitKey x ∧ s.inp.key = none ∧ t.mode = .waitKey x := by
  obtain ⟨-, -, -, -, -, -, hmode, -⟩ := changesOnlyListed_of_exec he
  obtain ⟨x, rfl⟩ := eq_waitKey_of_mnemonic (hmode hne)
  cases hk : s.inp.key with
  | some k =>
    rw [exec_waitKey_some hk] at he
    cases he
    exact absurd rfl hne
  | none =>
    rw [exec_waitKey_none hk] at he
    cases he
    exact ⟨x, rfl, rfl, rfl⟩

/-- A run cycle's instruction enters a wait only as Fx0A with no key. -/
theorem enters_wait_of_exec {s u : State} {inp : CycleInput} {i : Instr} {x : Reg} (hm : s.mode = .run)
    (he : exec i (s.sampled inp).advance = .next u) (hu : u.mode = .waitKey x) :
    inp.key = none ∧ i = .waitKey x := by
  have hne : u.mode ≠ (s.sampled inp).advance.mode := by simp [hu, hm]
  obtain ⟨x', rfl, hkey, hx'⟩ := mode_of_exec he hne
  obtain rfl : x' = x := Mode.waitKey.inj (hx'.symm.trans hu)
  exact ⟨hkey, rfl⟩

/-- Settles O22: of the five things a step can do, a decoded Fx0A with no key enters a wait, a poll with a key and a
reset leave it, and nothing else changes the mode. -/
theorem modeChangesOnlyByKeyWaitOrReset : Obligations.ModeChangesOnlyByKeyWaitOrReset := by
  intro s t hstep
  obtain ⟨inp, i, u, hr, hm, hd, he, rfl⟩ | ⟨inp, c, hr, hm, hd, rfl⟩ | ⟨inp, y, hr, hm, rfl⟩ | ⟨tick, hr, rfl⟩ |
    ⟨c, hr, rfl⟩ := step_next_cases hstep
  · refine ⟨fun x _ ht => ?_, fun x hs => by simp [hm] at hs⟩
    obtain ⟨hkey, rfl⟩ := enters_wait_of_exec hm he ht
    exact ⟨inp, hr, hkey, hd⟩
  · exact ⟨fun x _ ht => by simp [hm] at ht, fun x hs => by simp [hm] at hs⟩
  · refine ⟨fun x hs => by simp [hm] at hs, fun x hs hne => ?_⟩
    cases hk : inp.key with
    | none =>
      rw [(s.sampled inp).pollKey_none hk] at hne
      exact absurd (by simp [hs]) hne
    | some k =>
      rw [(s.sampled inp).pollKey_some hk]
      exact ⟨rfl, .inl ⟨inp, k, hr, hk⟩⟩
  · exact ⟨fun x hs ht => by simp [hs] at ht, fun x hs hne => absurd (by simp [hs]) hne⟩
  · exact ⟨fun x _ ht => by simp at ht, fun x _ _ => ⟨rfl, .inr ⟨c, hr⟩⟩⟩

end Sys2Proof.Machine
end

section
/-! SUPPORT. Proofs of the statements about the fetch, the transitions, launch and reset (30_encoding.md,
44_keys_timers.md, 60_exceptions.md, 70_reset_and_hazards.md). -/

namespace Sys2Proof.Machine

/-! ### The fetch -/

/-- A read at or above 4096 is 0 (R51). -/
theorem State.memRead_outside (s : State) {a : Addr} (h : 4096 ≤ a.toNat) : s.memRead a = 0 :=
  Memory.read_outside s.mem h

/-- Settles O8: the word is its two bytes, and a byte outside memory is 0. -/
theorem fetchReadsBigEndianWord : Obligations.FetchReadsBigEndianWord := by
  intro s
  have word : s.fetchWord.toNat = (s.memRead s.pc).toNat * 256 + (s.memRead (s.pc + 1)).toNat := wordOfBytes_toNat ..
  refine ⟨word, fun above below => ?_, fun last => ?_, fun edge => ?_⟩
  · have next : 4096 ≤ (s.pc + 1).toNat := by simp only [BitVec.toNat_add, BitVec.reduceToNat]; omega
    rw [State.fetchWord, s.memRead_outside above, s.memRead_outside next]
    rfl
  · have pc : s.pc = 65535 := BitVec.eq_of_toNat_eq last
    rw [word, s.memRead_outside (by omega), pc]
    simp
  · have pc : s.pc = 4095 := BitVec.eq_of_toNat_eq edge
    rw [word, pc, s.memRead_outside (a := 4095 + 1) (by decide)]
    simp

/-! ### Cycles -/

/-- The state a run cycle executes on, as the request taken, the inputs sampled and `pc` set (R75). -/
theorem sampled_advance (s : State) (inp : CycleInput) :
    (s.sampled inp).advance = (s.takeRequest.latch inp).setPc (s.pc + 2) := by
  simp [State.advance]

/-- Settles O9: a cycle asked for is `cycle` on the sampled inputs, which in mode Run fetches at the same `pc`. -/
theorem stepRunsDecodedInstruction : Obligations.StepRunsDecodedInstruction := by
  intro s inp i hm hr hd
  rw [step_cycle hr, ← sampled_advance]
  simp [cycle, hm, runCycle, execWord, hd]

/-- Settles O10: a word that no row matches is unmatched, and the no-op leaves the advanced state. -/
theorem unmatchedWordOnlyAdvancesPc : Obligations.UnmatchedWordOnlyAdvancesPc := by
  intro s inp hm hr noRow
  rw [step_next_of_unmatched hm hr (no_row_iff_unmatched.mp noRow), sampled_advance]

/-- A wait cycle with no key is the timer phase on the sampled inputs (R175). -/
theorem step_wait_none {s : State} {inp : CycleInput} {x : Reg} (hm : s.mode = .waitKey x)
    (hr : s.nextRequest = .cycle inp) (hk : inp.key = none) :
    step s = .next ((s.sampled inp).timerPhase inp.tick) := by
  rw [step_next_of_wait hm hr, (s.sampled inp).pollKey_none hk]

/-- A wait cycle with a key stores it, goes back to mode Run and runs the timer phase (R175). -/
theorem step_wait_some {s : State} {inp : CycleInput} {x : Reg} {k : Nibble} (hm : s.mode = .waitKey x)
    (hr : s.nextRequest = .cycle inp) (hk : inp.key = some k) :
    step s = .next ((((s.sampled inp).setV x (k.setWidth 8)).setMode .run).timerPhase inp.tick) := by
  rw [step_next_of_wait hm hr, (s.sampled inp).pollKey_some hk]

/-- A key in a register is its own value (R170). -/
theorem key_toNat (k : Nibble) : (k.setWidth 8 : Byte).toNat = k.toNat := by
  revert k
  decide

/-- Settles O11: the poll's two cases, before the timer phase. -/
theorem waitCyclePollsKeyOnly : Obligations.WaitCyclePollsKeyOnly := by
  intro s inp x hm hr
  refine ⟨step_wait_none hm hr, fun k hk => ⟨_, step_wait_some hm hr hk, rfl, fun z => ?_⟩⟩
  rw [State.setMode_getV, State.getV_setV_toNat, key_toNat]
  simp

/-- The state once a listed request is taken. -/
theorem takeRequest_of_cons {s : State} {r : Request} {rs : List Request} (h : s.requests = r :: rs) :
    s.takeRequest = { s with requests := rs } := by
  simp [State.takeRequest, h]

/-- Settles O12, by induction on the cycles: one with no key leaves the wait as it was, the rest still asked for. -/
theorem waitWithoutKeyNeverEnds : Obligations.WaitWithoutKeyNeverEnds := by
  intro inps
  induction inps with
  | nil =>
    intro s x rest _ hreq _
    obtain rfl : s.requests = rest := hreq
    exact ⟨s, rfl, rfl⟩
  | cons c cs ih =>
    intro s x rest hm hreq nokey
    have hstep := step_wait_none hm (s.nextRequest_cons hreq) (nokey c (by simp))
    have hrest : ((s.sampled c).timerPhase c.tick).requests = cs.map .cycle ++ rest := by
      rw [State.sampled, takeRequest_of_cons hreq]
      rfl
    obtain ⟨t, hrun, ht⟩ := ih _ x rest (by simpa using hm) hrest fun c hc => nokey c (by simp [hc])
    refine ⟨t, (run_succ_of_step hstep _).trans hrun, ?_⟩
    rw [State.sampled, takeRequest_of_cons hreq] at ht
    exact ht

/-! ### Timer services and resets -/

/-- A request other than a cycle with free inputs is listed, and taking it drops it from the list (log 3). -/
theorem takeRequest_of_listed {s : State} (h : s.nextRequest ≠ .cycle s.freeInput) :
    s.takeRequest = { s with requests := s.requests.tail } := by
  cases hreq : s.requests with
  | nil => exact absurd (s.nextRequest_nil hreq) h
  | cons r rs => exact takeRequest_of_cons hreq

/-- A service asked for is the timer phase (R207). -/
theorem step_service {s : State} {tick : Bool} (h : s.nextRequest = .service tick) :
    step s = .next (s.takeRequest.timerPhase tick) := by
  simp [step, transition, h]

/-- A reset asked for is the core's reset (R230, R234). -/
theorem step_reset {s : State} {c : Option CycleInput} (h : s.nextRequest = .reset c) :
    step s = .next s.takeRequest.coreReset := by
  simp [step, transition, h]

/-- Settles O13: the request is a listed one, and the timer phase touches no request. -/
theorem serviceRunsTimerPhaseAlone : Obligations.ServiceRunsTimerPhaseAlone := by
  intro s tick h
  rw [step_service h, takeRequest_of_listed (by simp [h])]
  rfl

/-- Settles O14: the core's reset is of the core's own state. -/
theorem resetKeepsMemoryAndDisplay : Obligations.ResetKeepsMemoryAndDisplay :=
  fun _ _ h => ⟨_, step_reset h, by simp, by simp⟩

/-- Settles O15: the request is a listed one, and the rest is the core's reset field by field. -/
theorem resetSetsCoreState : Obligations.ResetSetsCoreState := by
  intro s c h
  refine ⟨_, step_reset h, State.coreReset_getV _, ?_⟩
  rw [takeRequest_of_listed (by simp [h])]
  rfl

/-! ### Launch -/

/-- A program that fits is loaded (R235). -/
theorem launch_of_fits {p : Config.Params} {img : LaunchImage} (h : img.program.length ≤ 3584) :
    State.launch p img = some (State.coreReset { State.reset with
      mem := Memory.place img.constructed Config.programStart img.program
      fb := img.fb
      par := p
      requests := img.requests }) := by
  simp [State.launch, LaunchImage.loaded, Config.memSize, Config.programStart, h]

/-- A program that does not fit is never started (A27). -/
theorem launch_of_too_long {p : Config.Params} {img : LaunchImage} (h : 3584 < img.program.length) :
    State.launch p img = none := by
  simp [State.launch, LaunchImage.loaded, Config.memSize, Config.programStart, Nat.not_le.mpr h]

/-- Every byte of launch memory: program, fonts, filler (R57, R235). -/
theorem read_launch_memory {p : Config.Params} {img : LaunchImage} (legal : img.Legal p)
    (fits : img.program.length ≤ 3584) (a : Addr) :
    (Memory.place img.constructed Config.programStart img.program).read a =
      if a.toNat < 0x050 then img.smallFont.getD a.toNat 0
      else if a.toNat < 0x0F0 then img.largeFont.getD (a.toNat - 0x050) 0
      else if 0x200 ≤ a.toNat ∧ a.toNat < 0x200 + img.program.length then img.program.getD (a.toNat - 0x200) 0
      else img.filler.read a := by
  obtain ⟨small, large, -, -⟩ := legal
  simp only [Memory.read, LaunchImage.constructed, Memory.lookup_place, Config.programStart, Config.smallFontBase,
    Config.largeFontBase, small, large]
  have size : Config.memSize = 4096 := rfl
  generalize a.toNat = n
  by_cases inSmall : n < 0x050
  · rw [if_pos (by omega), if_neg (by omega), if_neg (by omega), if_pos (by omega), if_pos inSmall, Nat.sub_zero]
  by_cases inLarge : n < 0x0F0
  · rw [if_pos (by omega), if_neg (by omega), if_pos (by omega), if_neg inSmall, if_pos inLarge]
  by_cases inProgram : 0x200 ≤ n ∧ n < 0x200 + img.program.length
  · rw [if_pos (by omega), if_pos inProgram, if_neg inSmall, if_neg inLarge, if_pos inProgram]
  · have noSmall : ¬(0 ≤ n ∧ n < 0 + 80) := by omega
    have noLarge : ¬(80 ≤ n ∧ n < 80 + 160) := by omega
    rw [if_neg inProgram, if_neg noLarge, if_neg noSmall, if_neg inSmall, if_neg inLarge, if_neg inProgram]

/-- Settles O17: the core part is a reset's, and memory is the program over the fonts over the filler. -/
theorem launchBuildsBootState : Obligations.LaunchBuildsBootState := by
  refine fun p img legal => ⟨fun fits => ⟨_, launch_of_fits fits, ?_⟩, launch_of_too_long⟩
  exact ⟨rfl, rfl, rfl, rfl, State.coreReset_getV _, rfl, rfl, rfl, rfl, rfl, rfl, rfl, read_launch_memory legal fits⟩

/-- Launch memory has the canonical form: every byte is placed inside the array. -/
theorem constructed_wf {p : Config.Params} {img : LaunchImage} (legal : img.Legal p) : img.constructed.wf := by
  obtain ⟨small, large, -, filler⟩ := legal
  refine Memory.place_wf _ _ ?_ (Memory.place_wf _ _ ?_ filler)
  · rw [large]; decide
  · rw [small]; decide

/-- Settles O18: only a program that fits is launched, and placing it keeps memory's canonical form. -/
theorem launchMeetsInvariant : Obligations.LaunchMeetsInvariant := by
  intro p img s hp legal hlaunch
  have fits : img.program.length ≤ 3584 := by
    by_contra tooLong
    rw [launch_of_too_long (Nat.not_le.mp tooLong)] at hlaunch
    cases hlaunch
  rw [launch_of_fits fits] at hlaunch
  cases hlaunch
  have inside : Config.programStart + img.program.length ≤ Config.memSize := by
    simp only [Config.programStart, Config.memSize]; omega
  obtain ⟨-, -, grid, -⟩ := id legal
  exact ⟨Memory.place_wf _ _ inside (constructed_wf legal), grid, hp⟩

/-- Placing in a memory with nothing listed the bytes that read there anyway lists nothing. -/
theorem place_unlisted : ∀ (bs : List Byte) (a : Nat), (∀ k b, bs[k]? = some b → b = Memory.unlisted (a + k)) →
    Memory.place [] a bs = []
  | [], _, _ => rfl
  | b :: rest, a, h => by
    have hb : b = Memory.unlisted a := h 0 b rfl
    have hrest : ∀ k c, rest[k]? = some c → c = Memory.unlisted (a + 1 + k) := fun k c hc => by
      rw [h (k + 1) c hc, Nat.add_assoc, Nat.add_comm 1]
    rw [Memory.place, Memory.store, if_pos hb]
    exact place_unlisted rest (a + 1) hrest

/-- The default fonts are what memory with nothing listed reads (log 6). -/
theorem defaults_constructed : Defaults.image.constructed = [] := by
  have small : Memory.place [] Config.smallFontBase Defaults.smallFont = [] := by
    refine place_unlisted _ _ fun k b hb => ?_
    rw [Memory.unlisted, Config.smallFontBase, Nat.zero_add, List.getD_eq_getElem?_getD, hb]
    rfl
  have large : Memory.place [] Config.largeFontBase Defaults.largeFont = [] := by
    refine place_unlisted _ _ fun k b hb => ?_
    have above : Defaults.smallFont.length ≤ Config.largeFontBase + k := Nat.le_add_right 80 k
    rw [Memory.unlisted, List.getD_eq_default _ _ above]
    exact List.eq_of_mem_replicate (List.mem_of_getElem? hb)
  calc Defaults.image.constructed
      = Memory.place (Memory.place [] Config.smallFontBase Defaults.smallFont) Config.largeFontBase
          Defaults.largeFont := rfl
    _ = [] := by rw [small, large]

/-- Settles O19: the default image lists nothing, so its launch is the reset state. -/
theorem resetIsDefaultLaunchAndMeetsInvariant : Obligations.ResetIsDefaultLaunchAndMeetsInvariant := by
  refine ⟨?_, State.reset_mem_wf, Grid.blank_wf Defaults.params, by decide⟩
  rw [launch_of_fits (Nat.zero_le _), defaults_constructed]
  rfl

end Sys2Proof.Machine
end

section
/-! SUPPORT. Proofs of the statements about the display instructions (40_display.md): the pixels a sprite touches, the
collision flag as a fold over them, and the two properties of the draw. -/

namespace Sys2Proof.Machine

/-- 00E0 blanks the grid and presents it (R100). -/
theorem exec_clearDisplay (s : State) :
    exec .clearDisplay s = .next ((s.setFb (Grid.blank s.par.displayW s.par.displayH)).emit .present) := rfl

/-- Settles O27: a word that decodes is the word of its instruction, and the blank grid depends on the size alone. -/
theorem clearDisplayBlanksGridAndPresents : Obligations.ClearDisplayBlanksGridAndPresents := by
  refine ⟨fun w => decode_eq_instr_iff.trans eq_comm, fun s => ⟨_, exec_clearDisplay s, rfl, Grid.blank_wf s.par,
    fun x y _ _ => Grid.get_blank .., fun s' t' hpar h => ?_⟩⟩
  rw [exec_clearDisplay, hpar] at h
  cases h
  rfl

/-! ### The pixels of a sprite -/

/-- The pixels Dxyn composites: the sprite at `I`, at the place the two registers give (R101). -/
abbrev State.drawnPixels (s : State) (x y : Reg) (n : Nibble) : List Pixel :=
  s.spritePixels (s.getV x).toNat (s.getV y).toNat s.I n.toNat

/-- The pixel of bit `7 - j` of row `row` of a sprite drawn at `(X, Y)` (R101, D16). -/
def State.spritePixel (s : State) (X Y : Nat) (B : Addr) (row j : Nat) : Pixel where
  x := (X + j) % s.par.displayW
  y := (Y + row) % s.par.displayH
  d := (s.memRead (B + BitVec.ofNat 16 row)).getLsbD (7 - j)

/-- The pixels of one sprite row are its eight bits', in order. -/
theorem State.rowPixels_eq (s : State) (X Y : Nat) (B : Addr) (row : Nat) :
    rowPixels s.par.displayW X ((Y + row) % s.par.displayH) (s.memRead (B + BitVec.ofNat 16 row)) =
      (List.range 8).map (s.spritePixel X Y B row) := rfl

/-- A sprite of one more row draws that row last (R101). -/
theorem State.spritePixels_succ (s : State) (X Y : Nat) (B : Addr) (n : Nat) :
    s.spritePixels X Y B (n + 1) = s.spritePixels X Y B n ++ (List.range 8).map (s.spritePixel X Y B n) := by
  simp [State.spritePixels, List.range_succ, State.rowPixels_eq]

theorem State.length_spritePixels (s : State) (X Y : Nat) (B : Addr) (n : Nat) :
    (s.spritePixels X Y B n).length = 8 * n := by
  induction n with
  | zero => rfl
  | succ n ih => rw [State.spritePixels_succ, List.length_append, ih, List.length_map, List.length_range]; omega

/-- The sprite's pixels by row and bit. -/
theorem State.getElem?_spritePixels (s : State) (X Y : Nat) (B : Addr) {n row j : Nat} (hrow : row < n) (hj : j < 8) :
    (s.spritePixels X Y B n)[8 * row + j]? = some (s.spritePixel X Y B row j) := by
  induction n with
  | zero => omega
  | succ n ih =>
    have hlen := s.length_spritePixels X Y B n
    rw [State.spritePixels_succ]
    rcases Nat.lt_succ_iff_lt_or_eq.mp hrow with earlier | rfl
    · rw [List.getElem?_append_left (by omega), ih earlier]
    · rw [List.getElem?_append_right (by omega), hlen, Nat.add_sub_cancel_left]
      simp [hj]

/-- Every pixel of a sprite is the pixel of a row and a bit. -/
theorem State.exists_row_of_getElem? {s : State} {X Y : Nat} {B : Addr} {n k : Nat} {p : Pixel}
    (h : (s.spritePixels X Y B n)[k]? = some p) :
    ∃ row j, row < n ∧ j < 8 ∧ k = 8 * row + j ∧ p = s.spritePixel X Y B row j := by
  have hk : k < 8 * n := s.length_spritePixels X Y B n ▸ (List.getElem?_eq_some_iff.mp h).1
  have hrow : k / 8 < n := by omega
  have hj : k % 8 < 8 := by omega
  have split : 8 * (k / 8) + k % 8 = k := Nat.div_add_mod k 8
  refine ⟨k / 8, k % 8, hrow, hj, split.symm, ?_⟩
  have at_k := s.getElem?_spritePixels X Y B hrow hj
  rw [split, h] at at_k
  exact Option.some.inj at_k

/-! ### The collision flag -/

/-- The flag after compositing is raised before, or by a sprite bit of 1 that found its pixel on when composited. -/
theorem foldl_compositePixel_flag (ps : List Pixel) (acc : Grid × Bool) :
    (ps.foldl compositePixel acc).2 = true ↔ acc.2 = true ∨ ∃ k p, ps[k]? = some p ∧ p.d = true ∧
      ((ps.take k).foldl compositePixel acc).1.get p.x p.y = true := by
  induction ps generalizing acc with
  | nil => simp
  | cons q rest ih =>
    rw [List.foldl_cons, ih, compositePixel_flag, Bool.or_eq_true, Bool.and_eq_true, or_assoc]
    refine or_congr_right ⟨?_, ?_⟩
    · rintro (⟨hd, hon⟩ | ⟨k, p, hk, hd, hon⟩)
      · exact ⟨0, q, rfl, hd, hon⟩
      · exact ⟨k + 1, p, hk, hd, hon⟩
    · rintro ⟨k, p, hk, hd, hon⟩
      cases k with
      | zero => obtain rfl : q = p := Option.some.inj hk; exact .inl ⟨hd, hon⟩
      | succ k => exact .inr ⟨k, p, hk, hd, hon⟩

/-- The collision flag of a sprite (R101). -/
theorem composite_flag (g : Grid) (ps : List Pixel) :
    (composite g ps).2 = true ↔
      ∃ k p, ps[k]? = some p ∧ p.d = true ∧ (composite g (ps.take k)).1.get p.x p.y = true :=
  (foldl_compositePixel_flag ps (g, false)).trans (or_iff_right Bool.false_ne_true)

/-! ### The draw -/

/-- Dxyn composites the sprite at `I`, sets VF to the flag and presents (R101). -/
theorem exec_draw (x y : Reg) (n : Nibble) (s : State) :
    exec (.draw x y n) s = .next (((s.setFlag (composite s.fb (s.drawnPixels x y n)).2).setFb
      (composite s.fb (s.drawnPixels x y n)).1).emit .present) := by
  simp [exec, execDraw, State.effAddr_zero]

/-- VF after a flag write is the flag (R21). -/
@[simp] theorem State.getV_setFlag_VF (s : State) (b : Bool) : (s.setFlag b).getV 15 = flagByte b :=
  State.getV_setV_same ..

/-- VF after a flag write is 1 exactly when the flag is raised (R21, R130). -/
theorem getV_setFlag_eq_one (s : State) (b : Bool) : (s.setFlag b).getV 15 = 1 ↔ b = true := by
  rw [State.getV_setFlag_VF, flagByte_eq_one]

/-- VF after a flag write is 0 or 1. -/
theorem getV_setFlag_zero_or_one (s : State) (b : Bool) : (s.setFlag b).getV 15 = 0 ∨ (s.setFlag b).getV 15 = 1 := by
  rw [State.getV_setFlag_VF]
  cases b
  · exact .inl rfl
  · exact .inr rfl

/-- Settles O28: the sprite's pixels by row and bit, the grid by the compositor's law, and VF by its fold. -/
theorem drawCompositesSprite : Obligations.DrawCompositesSprite := by
  rintro x y n s ⟨-, grid, legal⟩
  have inGrid := s.spritePixels_in (s.getV x).toNat (s.getV y).toNat s.I n.toNat legal
  refine ⟨⟨s.length_spritePixels .., fun _ _ => s.getElem?_spritePixels _ _ _⟩, _, exec_draw x y n s, rfl,
    ?_, ?_, ?_, ?_, ?_⟩
  · exact composite_wf _ grid
  · exact fun px py _ _ => composite_get _ grid inGrid px py
  · exact fun z hz => s.getV_setV_ne _ hz
  · exact getV_setFlag_zero_or_one s _
  · exact (getV_setFlag_eq_one s _).trans (composite_flag _ _)

/-- A draw after a draw reads the same sprite at the same place, when VF is neither of its registers (R103). -/
theorem drawnPixels_after_draw {x y : Reg} (n : Nibble) (s : State) (b : Bool) (g : Grid) (e : OutEvent) (hx : x ≠ 15)
    (hy : y ≠ 15) : (((s.setFlag b).setFb g).emit e).drawnPixels x y n = s.drawnPixels x y n := by
  have vx : (s.setFlag b).getV x = s.getV x := s.getV_setV_ne _ hx
  have vy : (s.setFlag b).getV y = s.getV y := s.getV_setV_ne _ hy
  simp only [State.drawnPixels, State.emit_getV, State.setFb_getV, vx, vy]
  rfl

/-- Compositing the same pixels twice restores the grid: each pixel is flipped as often again (R103). -/
theorem composite_twice {g : Grid} {p : Config.Params} {ps : List Pixel} (h : g.wf p)
    (hin : ∀ q ∈ ps, q.x < p.displayW ∧ q.y < p.displayH) : (composite (composite g ps).1 ps).1 = g := by
  have h' := composite_wf ps h
  refine Grid.ext_get (composite_wf ps h') h fun x y _ _ => ?_
  rw [composite_get ps h' hin, composite_get ps h hin, Bool.xor_assoc, Bool.xor_self, Bool.xor_false]

/-- Settles O30: the first draw changes neither the sprite nor its place, so the second flips every pixel back. -/
theorem drawTwiceRestoresGrid : Obligations.DrawTwiceRestoresGrid := by
  rintro x y n s ⟨-, grid, legal⟩ hx hy
  refine ⟨_, _, exec_draw x y n s, exec_draw x y n _, ?_⟩
  rw [drawnPixels_after_draw n s _ _ _ hx hy]
  exact composite_twice grid (s.spritePixels_in _ _ _ _ legal)

/-- Offsets below the modulus that wrap to one place are the same. -/
theorem eq_of_add_mod_eq {a i j m : Nat} (hi : i < m) (hj : j < m) (h : (a + i) % m = (a + j) % m) : i = j :=
  (Nat.ModEq.add_left_cancel' a h).eq_of_lt_of_lt hi hj

/-- No pixel is flipped by pixels at other places. -/
theorem flips_eq_false {ps : List Pixel} {x y : Nat} (h : ∀ q ∈ ps, ¬(q.x = x ∧ q.y = y)) : flips ps x y = false := by
  induction ps with
  | nil => rfl
  | cons q rest ih =>
    have hq := h q (by simp)
    rw [flips, ih fun r hr => h r (by simp [hr]), decide_eq_false hq]
    rfl

/-- On a grid at least 8 wide and `n` high no earlier pixel of a sprite lands where a later one does (R103). -/
theorem spritePixels_take_elsewhere {s : State} {X Y : Nat} {B : Addr} {n k : Nat} {p : Pixel}
    (wide : 8 ≤ s.par.displayW) (high : n ≤ s.par.displayH) (hk : (s.spritePixels X Y B n)[k]? = some p) :
    ∀ q ∈ (s.spritePixels X Y B n).take k, ¬(q.x = p.x ∧ q.y = p.y) := by
  rintro q hq ⟨hx, hy⟩
  obtain ⟨i, hi⟩ := List.mem_iff_getElem?.mp hq
  rw [List.getElem?_take] at hi
  split at hi
  case isFalse => cases hi
  case isTrue earlier =>
    obtain ⟨row, j, hrow, hj, rfl, rfl⟩ := State.exists_row_of_getElem? hk
    obtain ⟨row', j', hrow', hj', rfl, rfl⟩ := State.exists_row_of_getElem? hi
    have sameColumn : j' = j := eq_of_add_mod_eq (by omega) (by omega) hx
    have sameRow : row' = row := eq_of_add_mod_eq (by omega) (by omega) hy
    omega

/-- Settles O31: no pixel is composited after another of the sprite at its place, so each finds the pixel the grid had
before the draw. -/
theorem drawFlagIsOverlapBeforeDraw : Obligations.DrawFlagIsOverlapBeforeDraw := by
  rintro x y n s ⟨-, grid, legal⟩ wide high
  have inGrid := s.spritePixels_in (s.getV x).toNat (s.getV y).toNat s.I n.toNat legal
  have untouched : ∀ k p, (s.drawnPixels x y n)[k]? = some p →
      (composite s.fb ((s.drawnPixels x y n).take k)).1.get p.x p.y = s.fb.get p.x p.y := fun k p hk => by
    rw [composite_get _ grid (fun q hq => inGrid q (List.mem_of_mem_take hq)),
      flips_eq_false (spritePixels_take_elsewhere wide high hk), Bool.xor_false]
  refine ⟨_, exec_draw x y n s, (getV_setFlag_eq_one s _).trans ((composite_flag _ _).trans ⟨?_, ?_⟩)⟩
  · rintro ⟨k, p, hk, hd, hon⟩
    rw [untouched k p hk] at hon
    obtain ⟨row, j, hrow, hj, -, rfl⟩ := State.exists_row_of_getElem? hk
    exact ⟨row, j, hrow, hj, hd, hon⟩
  · rintro ⟨row, j, hrow, hj, hd, hon⟩
    have hk := s.getElem?_spritePixels (s.getV x).toNat (s.getV y).toNat s.I hrow hj
    exact ⟨_, _, hk, hd, (untouched _ _ hk).trans hon⟩

end Sys2Proof.Machine
end

section
/-! SUPPORT. Proofs of the statements about calls, returns and skips (41_control.md). -/

namespace Sys2Proof.Machine

/-! ### Calls and returns -/

/-- 2nnn pushes `pc` and jumps (R113). -/
theorem exec_call (nnn : BitVec 12) (s : State) :
    exec (.call nnn) s = .next ((s.push16 s.pc).setPc (zextNNN nnn)) := rfl

/-- 00EE pops into `pc` (R111). -/
theorem exec_ret (s : State) : exec .ret s = .next (s.pop16.setPc s.popValue) := rfl

/-- The low byte of a word as a number (R54). -/
theorem lowByte_toNat (w : Word) : (lowByte w).toNat = w.toNat % 256 := by
  simp [lowByte]

/-- The high byte of a word as a number (R54). -/
theorem highByte_toNat (w : Word) : (highByte w).toNat = w.toNat / 256 := by
  have := w.isLt
  simp only [highByte, BitVec.extractLsb'_toNat, Nat.shiftRight_eq_div_pow]
  omega

/-- An address and the one above it differ. -/
theorem add_one_ne (a : Addr) : a ≠ a + 1 := by
  intro h
  have := congrArg BitVec.toNat h
  simp only [BitVec.toNat_add, BitVec.reduceToNat] at this
  omega

/-- A push puts the low byte at `sp` (R64). -/
theorem State.memRead_push16_low (s : State) (v : Addr) (h : s.sp.toNat < 4096) :
    (s.push16 v).memRead s.sp = lowByte v := by
  rw [State.memRead_push16, if_neg fun e => add_one_ne s.sp e.1, if_pos ⟨rfl, h⟩]

/-- A push puts the high byte at `sp + 1` (R64). -/
theorem State.memRead_push16_high (s : State) (v : Addr) (h : (s.sp + 1).toNat < 4096) :
    (s.push16 v).memRead (s.sp + 1) = highByte v := by
  rw [State.memRead_push16, if_pos ⟨rfl, h⟩]

/-- A push changes no other byte (R64). -/
theorem State.memRead_push16_ne (s : State) (v : Addr) {a : Addr} (low : a ≠ s.sp) (high : a ≠ s.sp + 1) :
    (s.push16 v).memRead a = s.memRead a := by
  rw [State.memRead_push16, if_neg fun e => high e.1, if_neg fun e => low e.1]

/-- Settles O34: the one effect on memory is the push of `pc`, low byte first. -/
theorem callPushesReturnAddress : Obligations.CallPushesReturnAddress := by
  refine fun nnn s => ⟨_, exec_call nnn s, rfl, zextNNN_toNat nnn, fun low => ?_, fun high => ?_, fun a => ?_⟩
  · rw [State.setPc_memRead, s.memRead_push16_low _ low, lowByte_toNat]
  · rw [State.setPc_memRead, s.memRead_push16_high _ high, highByte_toNat]
  · exact s.memRead_push16_ne _

/-- The high byte of the popped address stands just below `sp` (R65). -/
theorem sub_two_add_one (a : Addr) : a - 2 + 1 = a - 1 := by
  bv_omega

/-- Settles O35: the popped value is the word of the two bytes below `sp`. -/
theorem returnPopsAddress : Obligations.ReturnPopsAddress := by
  refine fun s => ⟨_, exec_ret s, rfl, ?_⟩
  rw [State.setPc_pc, State.popValue, wordOfBytes_toNat, sub_two_add_one]

/-! ### The stack as a list -/

/-- Popping the latest of `n + 1` return addresses leaves `sp` above the other `n` (R65). -/
theorem popped_sp {sp : Addr} {base n : Nat} (h : sp.toNat = base + 2 * (n + 1)) :
    (sp - 2).toNat = base + 2 * n := by
  bv_omega

/-- The two bytes of the latest of `n + 1` return addresses are those below `sp` (R55, R64). -/
theorem latest_call_address {sp : Addr} {base n : Nat} (h : sp.toNat = base + 2 * (n + 1)) :
    BitVec.ofNat 16 (base + 2 * n) = sp - 2 ∧ BitVec.ofNat 16 (base + 2 * n + 1) = sp - 1 := by
  constructor <;> bv_omega

/-- A stack that holds `a` as its latest address holds it in the two bytes below `sp` and the earlier ones below those
(R55, R64). -/
theorem holdsCalls_cons_iff {s : State} {base : Nat} {a : Addr} {rest : List Addr} :
    HoldsCalls s base (a :: rest) ↔
      s.sp.toNat = base + 2 * (rest.length + 1) ∧ s.sp.toNat ≤ Config.memSize ∧
        s.memRead (s.sp - 2) = lowByte a ∧ s.memRead (s.sp - 1) = highByte a ∧
        HoldsCalls (s.setSp (s.sp - 2)) base rest := by
  constructor
  · rintro ⟨hsp, hsize, held⟩
    obtain ⟨low, high⟩ := latest_call_address hsp
    obtain ⟨hlow, hhigh⟩ := held 0 (Nat.succ_pos _)
    have hsp' : (s.sp - 2).toNat = base + 2 * rest.length := popped_sp hsp
    refine ⟨hsp, hsize, low ▸ hlow, high ▸ hhigh, hsp', ?_, fun k hk => ?_⟩
    · exact hsp'.trans_le ((Nat.add_le_add_left (by simp) base).trans (hsp ▸ hsize))
    · simpa [Nat.sub_sub, Nat.add_comm 1] using held (k + 1) (Nat.succ_lt_succ hk)
  · rintro ⟨hsp, hsize, hlow, hhigh, -, -, held⟩
    obtain ⟨low, high⟩ := latest_call_address hsp
    refine ⟨hsp, hsize, fun k hk => ?_⟩
    cases k with
    | zero => exact ⟨low ▸ hlow, high ▸ hhigh⟩
    | succ k => simpa [Nat.sub_sub, Nat.add_comm 1] using held k (Nat.lt_of_succ_lt_succ hk)

/-- What a stack holds depends on `sp` and on the bytes below it alone. -/
theorem HoldsCalls.congr {s t : State} {base : Nat} {as : List Addr} (h : HoldsCalls s base as) (hsp : t.sp = s.sp)
    (hmem : ∀ a : Addr, a.toNat < s.sp.toNat → t.memRead a = s.memRead a) : HoldsCalls t base as := by
  obtain ⟨top, hsize, held⟩ := h
  refine ⟨hsp ▸ top, hsp ▸ hsize, fun k hk => ?_⟩
  have below : ∀ b, b ≤ base + 2 * (as.length - 1 - k) + 1 → (BitVec.ofNat 16 b).toNat < s.sp.toNat := fun b hb => by
    rw [BitVec.toNat_ofNat]
    exact (Nat.mod_le ..).trans_lt (by omega)
  rw [hmem _ (below _ (Nat.le_succ _)), hmem _ (below _ le_rfl)]
  exact held k hk

/-- A push that fits in memory adds its address to the stack (R64). -/
theorem holdsCalls_push16 {s : State} {base : Nat} {as : List Addr} (v : Addr) (h : HoldsCalls s base as)
    (fits : s.sp.toNat + 2 ≤ 4096) : HoldsCalls (s.push16 v) base (v :: as) := by
  have back : s.sp + 2 - 2 = s.sp := BitVec.add_sub_cancel ..
  have above : s.sp + 2 - 1 = s.sp + 1 := by bv_omega
  have pushed : (s.sp + 2).toNat = s.sp.toNat + 2 := by bv_omega
  have high : (s.sp + 1).toNat = s.sp.toNat + 1 := by bv_omega
  obtain ⟨top, -, -⟩ := id h
  rw [holdsCalls_cons_iff, State.push16_sp, back, above, pushed]
  refine ⟨by omega, fits, s.memRead_push16_low v (by omega), s.memRead_push16_high v (by omega), ?_⟩
  refine h.congr rfl fun a below => s.memRead_push16_ne v (fun e => ?_) (fun e => ?_)
  · rw [e] at below; omega
  · rw [e] at below; omega

/-- Settles O36: a call is a push, and a return reads the latest address back from the two bytes below `sp`. -/
theorem callStackRefinesReturnAddressList : Obligations.CallStackRefinesReturnAddressList := by
  refine fun s base as held => ⟨fun nnn fits => ⟨_, exec_call nnn s, ?_⟩, fun a rest eq => ⟨_, exec_ret s, ?_⟩⟩
  · exact (holdsCalls_push16 s.pc held fits).congr rfl fun _ _ => rfl
  · subst eq
    obtain ⟨-, -, low, high, earlier⟩ := holdsCalls_cons_iff.mp held
    refine ⟨?_, earlier.congr rfl fun _ _ => rfl⟩
    rw [State.setPc_pc, State.popValue, sub_two_add_one, low, high, wordOfBytes_bytes]

/-! ### Skips -/

/-- 3xkk (R114). -/
theorem exec_skipEqImm (x : Reg) (kk : Byte) (s : State) :
    exec (.skipEqImm x kk) s = .next (s.skipIf (s.getV x == kk)) := rfl

/-- 4xkk (R115). -/
theorem exec_skipNeImm (x : Reg) (kk : Byte) (s : State) :
    exec (.skipNeImm x kk) s = .next (s.skipIf (s.getV x != kk)) := rfl

/-- 5xy0 (R116). -/
theorem exec_skipEqReg (x y : Reg) (s : State) :
    exec (.skipEqReg x y) s = .next (s.skipIf (s.getV x == s.getV y)) := rfl

/-- 9xy0 (R117). -/
theorem exec_skipNeReg (x y : Reg) (s : State) :
    exec (.skipNeReg x y) s = .next (s.skipIf (s.getV x != s.getV y)) := rfl

/-- A skip when two bytes are equal, as numbers (R110, D3). -/
theorem State.skipIf_beq_pc_toNat (s : State) (a b : Byte) :
    (s.skipIf (a == b)).pc.toNat = if a.toNat = b.toNat then (s.pc.toNat + 2) % 65536 else s.pc.toNat := by
  by_cases h : a = b
  · rw [if_pos (congrArg _ h)]; simp [h]
  · rw [if_neg (mt BitVec.eq_of_toNat_eq h)]; simp [h]

/-- A skip when two bytes differ, as numbers (R110, D3). -/
theorem State.skipIf_bne_pc_toNat (s : State) (a b : Byte) :
    (s.skipIf (a != b)).pc.toNat = if a.toNat = b.toNat then s.pc.toNat else (s.pc.toNat + 2) % 65536 := by
  by_cases h : a = b
  · rw [if_pos (congrArg _ h)]; simp [h]
  · rw [if_neg (mt BitVec.eq_of_toNat_eq h)]; simp [h]

/-- Settles O37: the two skips test one equality, and a skip only sets `pc`. -/
theorem skipsOnImmediate : Obligations.SkipsOnImmediate := fun x kk s =>
  ⟨⟨_, exec_skipEqImm x kk s, rfl, s.skipIf_beq_pc_toNat ..⟩, ⟨_, exec_skipNeImm x kk s, rfl, s.skipIf_bne_pc_toNat ..⟩⟩

/-- Settles O38: the two skips test one equality, and a skip only sets `pc`. -/
theorem skipsOnRegisters : Obligations.SkipsOnRegisters := fun x y s =>
  ⟨⟨_, exec_skipEqReg x y s, rfl, s.skipIf_beq_pc_toNat ..⟩, ⟨_, exec_skipNeReg x y s, rfl, s.skipIf_bne_pc_toNat ..⟩⟩

end Sys2Proof.Machine
end

section
/-! SUPPORT. Proofs of the statements about the instructions that write a result and a flag, and about the random byte
(42_alu.md). -/

namespace Sys2Proof.Machine

/-! ### A flag and a result -/

/-- 8xy4 (R137). -/
theorem exec_addCarry (x y : Reg) (s : State) : exec (.addCarry x y) s =
    .next ((s.setFlag (addCarryFlag (s.getV x) (s.getV y))).setV x (s.getV x + s.getV y)) := rfl

/-- 8xy5 (R138). -/
theorem exec_sub (x y : Reg) (s : State) : exec (.sub x y) s =
    .next ((s.setFlag (subFlag (s.getV x) (s.getV y))).setV x (s.getV x - s.getV y)) := rfl

/-- 8xy7 (R140, D14). -/
theorem exec_subReversed (x y : Reg) (s : State) : exec (.subReversed x y) s =
    .next ((s.setFlag (subReversedFlag (s.getV x) (s.getV y))).setV x (s.getV x - s.getV y)) := rfl

/-- 8xy6, whatever `y` is (R139). -/
theorem exec_shiftRight (x y : Reg) (s : State) : exec (.shiftRight x y) s =
    .next ((s.setFlag (shiftRightFlag (s.getV x))).setV x (s.getV x >>> 1)) := rfl

/-- 8xyE, whatever `y` is (R141). -/
theorem exec_shiftLeft (x y : Reg) (s : State) : exec (.shiftLeft x y) s =
    .next ((s.setFlag (shiftLeftFlag (s.getV x))).setV x (s.getV x <<< 1)) := rfl

/-- Every register after a flag and then a result, as numbers: where the result's register is VF the flag is lost (R22,
D2). -/
theorem State.getV_setFlag_setV_toNat (s : State) (b : Bool) (x z : Reg) (v : Byte) {result flag : Nat}
    (hresult : v.toNat = result) (hflag : (flagByte b).toNat = flag) :
    (((s.setFlag b).setV x v).getV z).toNat =
      if z = x then result else if z = 15 then flag else (s.getV z).toNat := by
  rw [State.getV_setV_toNat, State.getV_setFlag, apply_ite BitVec.toNat, hresult, hflag]
  rfl

/-- A flag that decides a condition, as a number (R130). -/
theorem flagByte_decide_toNat (p : Prop) [Decidable p] : (flagByte (decide p)).toNat = if p then 1 else 0 := by
  simp [flagByte_toNat]

/-- Settles O42: the sum of bytes wraps at 256, and the flag decides the carry. -/
theorem addSetsSumAndCarry : Obligations.AddSetsSumAndCarry := fun x y s =>
  ⟨_, exec_addCarry x y s, rfl, fun z =>
    s.getV_setFlag_setV_toNat _ x z _ (BitVec.toNat_add ..) (flagByte_decide_toNat _)⟩

/-- A difference of bytes as numbers (R130). -/
theorem sub_toNat (a b : Byte) : (a - b).toNat = (a.toNat + 256 - b.toNat) % 256 := by
  have := b.isLt
  rw [BitVec.toNat_sub]
  congr 1
  omega

/-- Settles O43: the two store one difference, and their flags decide opposite strict comparisons. -/
theorem subtractionsStoreSameDifference : Obligations.SubtractionsStoreSameDifference := fun x y s =>
  ⟨⟨_, exec_sub x y s, rfl, fun z =>
      s.getV_setFlag_setV_toNat _ x z _ (sub_toNat ..) (flagByte_decide_toNat _)⟩,
    ⟨_, exec_subReversed x y s, rfl, fun z =>
      s.getV_setFlag_setV_toNat _ x z _ (sub_toNat ..) (flagByte_decide_toNat _)⟩⟩

/-- A byte shifted right by one is halved (R139). -/
theorem ushiftRight_one_toNat (a : Byte) : (a >>> 1).toNat = a.toNat / 2 := by
  rw [BitVec.toNat_ushiftRight, Nat.shiftRight_eq_div_pow, pow_one]

/-- A byte shifted left by one is doubled modulo 256 (R141). -/
theorem shiftLeft_one_toNat (a : Byte) : (a <<< 1).toNat = a.toNat * 2 % 256 := by
  rw [BitVec.toNat_shiftLeft, Nat.shiftLeft_eq, pow_one]

/-- Settles O44: the shifts halve and double, the flag is the bit shifted out, and no meaning reads `y`. -/
theorem shiftsMoveOneBitIntoFlag : Obligations.ShiftsMoveOneBitIntoFlag := fun x y y' s =>
  ⟨⟨_, exec_shiftRight x y s, exec_shiftRight x y' s, rfl, fun z =>
      s.getV_setFlag_setV_toNat _ x z _ (ushiftRight_one_toNat _) (shiftRightFlag_toNat _)⟩,
    ⟨_, exec_shiftLeft x y s, exec_shiftLeft x y' s, rfl, fun z =>
      s.getV_setFlag_setV_toNat _ x z _ (shiftLeft_one_toNat _) (shiftLeftFlag_toNat _)⟩⟩

/-! ### The random byte -/

/-- Cxkk (R142). -/
theorem exec_random (x : Reg) (kk : Byte) (s : State) :
    exec (.random x kk) s = .next (s.setV x (s.inp.rnd &&& kk)) := rfl

/-- Settles O45: the one write is of `V[x]`, and the library gives the bits of an AND. -/
theorem randomMasksFreeByte : Obligations.RandomMasksFreeByte := fun x kk s =>
  exec_setV_bits (exec_random x kk s) fun _ => BitVec.getLsbD_and

end Sys2Proof.Machine
end

section
/-! SUPPORT. Proofs of the statements about the index register and the memory instructions (43_index_memory.md). -/

namespace Sys2Proof.Machine

/-! ### The index register -/

/-- Annn (R151). -/
theorem exec_loadIndex (nnn : BitVec 12) (s : State) :
    exec (.loadIndex nnn) s = .next (s.setI (zextNNN nnn)) := rfl

/-- Fx1E (R152). -/
theorem exec_addIndex (x : Reg) (s : State) :
    exec (.addIndex x) s = .next (s.setI (s.I + zext16 (s.getV x))) := rfl

/-- Fx29 (R153). -/
theorem exec_fontAddress (x : Reg) (s : State) :
    exec (.fontAddress x) s = .next (s.setI (zext16 (s.getV x) * 5)) := rfl

/-- A byte zero-extended keeps its value (R71). -/
theorem zext16_toNat (b : Byte) : (zext16 b).toNat = b.toNat := by
  have := b.isLt
  rw [zext16, BitVec.toNat_setWidth]
  omega

/-- Settles O46: each only sets `I`, and five times a byte fits in 16 bits. -/
theorem indexRegisterWrites : Obligations.IndexRegisterWrites := by
  refine ⟨fun nnn s => ⟨_, exec_loadIndex nnn s, rfl, zextNNN_toNat nnn⟩,
    fun x s => ⟨_, exec_addIndex x s, rfl, ?_⟩, fun x s => ⟨_, exec_fontAddress x s, rfl, ?_⟩⟩
  · rw [State.setI_I, BitVec.toNat_add, zext16_toNat]
  · have := (s.getV x).isLt
    rw [State.setI_I, BitVec.toNat_mul, zext16_toNat]
    exact Nat.mod_eq_of_lt (by simp only [BitVec.reduceToNat]; omega)

/-! ### Decimal digits -/

/-- The words of Fx33 (R73, R154). -/
theorem bcd_encodedBy : EncodedBy 0xF0FF 0xF033 fun w => .bcd (fieldX w) :=
  encodedBy_low_byte_row (c := 0xF) (y := 0x3) (n := 0x3) fun _ => rfl

/-- The memory after Fx33: three digits stored upward from `I` (R154). -/
def State.storeDigits (s : State) (X : Nat) : State :=
  ((s.memWrite s.I (BitVec.ofNat 8 (X / 100))).memWrite (s.I + 1) (BitVec.ofNat 8 (X / 10 % 10))).memWrite (s.I + 2)
    (BitVec.ofNat 8 (X % 10))

/-- Fx33 only stores the digits of `V[x]` (R154). -/
theorem exec_bcd (x : Reg) (s : State) : exec (.bcd x) s = .next (s.storeDigits (s.getV x).toNat) := by
  simp [exec, execBcd, State.storeDigits, State.effAddr]

/-- Two addresses two apart differ. -/
theorem add_two_ne (a : Addr) : a ≠ a + 2 ∧ a + 1 ≠ a + 2 := by
  constructor <;> bv_omega

/-- The hundreds digit stands at `I`. -/
theorem memRead_storeDigits_hundreds (s : State) (X : Nat) (h : s.I.toNat < 4096) :
    (s.storeDigits X).memRead s.I = BitVec.ofNat 8 (X / 100) := by
  rw [State.storeDigits, State.memRead_memWrite_ne _ _ (add_two_ne s.I).1,
    State.memRead_memWrite_ne _ _ (add_one_ne s.I), State.memRead_memWrite_same _ _ h]

/-- The tens digit stands at `I + 1`. -/
theorem memRead_storeDigits_tens (s : State) (X : Nat) (h : (s.I + 1).toNat < 4096) :
    (s.storeDigits X).memRead (s.I + 1) = BitVec.ofNat 8 (X / 10 % 10) := by
  rw [State.storeDigits, State.memRead_memWrite_ne _ _ (add_two_ne s.I).2, State.memRead_memWrite_same _ _ h]

/-- The units digit stands at `I + 2`. -/
theorem memRead_storeDigits_units (s : State) (X : Nat) (h : (s.I + 2).toNat < 4096) :
    (s.storeDigits X).memRead (s.I + 2) = BitVec.ofNat 8 (X % 10) := by
  rw [State.storeDigits, State.memRead_memWrite_same _ _ h]

/-- A digit is its own value in a byte. -/
theorem digit_toNat {d : Nat} (h : d ≤ 9) : (BitVec.ofNat 8 d).toNat = d := by
  rw [BitVec.toNat_ofNat]
  omega

/-- Settles O47: the row fixes the selector and the low byte, and each digit is read back past the writes above it. -/
theorem bcdStoresThreeDigits : Obligations.BcdStoresThreeDigits := by
  refine ⟨bcd_encodedBy, fun x s => ⟨_, exec_bcd x s, rfl, fun h => ?_, fun h => ?_, fun h => ?_, fun a h0 h1 h2 => ?_⟩⟩
  · have hundreds : (s.getV x).toNat / 100 ≤ 2 := by have := (s.getV x).isLt; omega
    rw [memRead_storeDigits_hundreds s _ h, digit_toNat (by omega)]
    exact ⟨rfl, hundreds⟩
  · rw [memRead_storeDigits_tens s _ h, digit_toNat (by omega)]
    exact ⟨rfl, by omega⟩
  · rw [memRead_storeDigits_units s _ h, digit_toNat (by omega)]
    exact ⟨rfl, by omega⟩
  · rw [State.storeDigits, State.memRead_memWrite_ne _ _ h2, State.memRead_memWrite_ne _ _ h1,
      State.memRead_memWrite_ne _ _ h0]

/-! ### Register blocks -/

/-- Byte `k` of a stored block reads as register `k` (R155). -/
theorem memRead_dumped {s : State} {x : Reg} {k : Nat} (hk : k ≤ x.toNat) (h : (s.effAddr k).toNat < 4096) :
    (s.dumpBlock s.I (x.toNat + 1)).memRead (s.effAddr k) = s.getV (BitVec.ofNat 4 k) := by
  have hx := x.isLt
  have offset : (s.effAddr k - s.I).toNat = k := s.effAddr_sub (by omega)
  rw [State.memRead_dumpBlock s _ _ (by omega), offset, if_pos ⟨by omega, h⟩]

/-- A byte that is not of the block reads as before (R155). -/
theorem memRead_not_dumped {s : State} {x : Reg} {a : Addr} (h : ∀ k, k ≤ x.toNat → a ≠ s.effAddr k) :
    (s.dumpBlock s.I (x.toNat + 1)).memRead a = s.memRead a := by
  have outside : ¬(a - s.I).toNat < x.toNat + 1 := fun hlt => by
    refine h _ (Nat.le_of_lt_succ hlt) ?_
    rw [State.effAddr, BitVec.ofNat_toNat, BitVec.setWidth_eq, BitVec.add_comm, BitVec.sub_add_cancel]
  rw [State.memRead_dumpBlock s _ _ x.isLt, if_neg fun e => outside e.1]

/-- Settles O48: the block store's own frame, and its bytes by their offset from `I`. -/
theorem dumpStoresRegisterBlock : Obligations.DumpStoresRegisterBlock := fun x s =>
  ⟨_, exec_dump x s, s.dumpBlock_frame .., fun _ => memRead_dumped, fun _ => memRead_not_dumped⟩

/-- Settles O49: the block load's own frame, and its registers by the law of the load. -/
theorem loadReadsRegisterBlock : Obligations.LoadReadsRegisterBlock := by
  refine fun x s => ⟨_, exec_load x s, s.loadBlock_frame .., fun z => ?_⟩
  rw [State.getV_loadBlock s _ z x.isLt]
  simp only [Nat.lt_succ_iff]
  rfl

/-- An address of a block that does not wrap, as a number (R150). -/
theorem effAddr_toNat {s : State} {k : Nat} (h : s.I.toNat + k < 4096) : (s.effAddr k).toNat = s.I.toNat + k := by
  rw [State.effAddr, BitVec.toNat_add, BitVec.toNat_ofNat]
  omega

/-- Byte `k` of a block that lies in memory reads as register `k` once stored (R155). -/
theorem memRead_dumped_inside {s : State} {x : Reg} {k : Nat} (hk : k ≤ x.toNat) (inside : s.I.toNat + k < 4096) :
    (s.dumpBlock s.I (x.toNat + 1)).memRead (s.effAddr k) = s.getV (BitVec.ofNat 4 k) :=
  memRead_dumped hk ((effAddr_toNat inside).trans_lt inside)

/-- Settles O50: the load reads each register's byte where the store put it. -/
theorem dumpThenLoadRestoresRegisters : Obligations.DumpThenLoadRestoresRegisters := by
  refine fun x s inside => ⟨_, exec_dump x s, fun u hmem hI => ⟨_, exec_load x u, fun z hz => ?_⟩⟩
  have address : u.I + BitVec.ofNat 16 z.toNat = s.effAddr z.toNat := by
    rw [hI, State.dumpBlock_frame]
    rfl
  have reg : BitVec.ofNat 4 z.toNat = z := by rw [BitVec.ofNat_toNat, BitVec.setWidth_eq]
  have stored := memRead_dumped_inside (s := s) hz (by omega)
  rw [State.getV_loadBlock u _ z x.isLt, if_pos (Nat.lt_succ_of_le hz), address, State.memRead, hmem]
  exact stored.trans (congrArg s.getV reg)

/-- Settles O26: the two bytes fetched are bytes `k` and `k + 1` of the block. -/
theorem fetchSeesDumpedBytes : Obligations.FetchSeesDumpedBytes := by
  refine fun s x k hk inside => ⟨_, exec_dump x s, ?_⟩
  have next : s.effAddr k + 1 = s.effAddr (k + 1) := by
    rw [State.effAddr, State.effAddr, BitVec.add_assoc, BitVec.ofNat_add]
    rfl
  rw [State.fetchWord, State.setPc_memRead, State.setPc_memRead, State.setPc_pc]
  change wordOfBytes (State.memRead _ (s.effAddr k)) (State.memRead _ (s.effAddr k + 1)) = _
  rw [next, memRead_dumped_inside (by omega) (by omega), memRead_dumped_inside hk (by omega)]

end Sys2Proof.Machine
end

section
/-! SUPPORT. Proofs of the statements about the keys and the timers (44_keys_timers.md, 60_exceptions.md). -/

namespace Sys2Proof.Machine

/-! ### Keys -/

/-- Ex9E (R171). -/
theorem exec_skipIfKey (x : Reg) (s : State) :
    exec (.skipIfKey x) s = .next (s.skipIf (s.keyIs (s.getV x))) := rfl

/-- ExA1 (R172). -/
theorem exec_skipIfNotKey (x : Reg) (s : State) :
    exec (.skipIfNotKey x) s = .next (s.skipIf (!s.keyIs (s.getV x))) := rfl

/-- The sample is a key equal to a register value exactly when it is a key of that value (R170, D21). -/
theorem State.keyIs_iff (s : State) (X : Byte) : s.keyIs X = true ↔ ∃ k, s.inp.key = some k ∧ k.toNat = X.toNat := by
  unfold State.keyIs State.keyIn
  cases s.inp.key with
  | none => simp
  | some k => rw [beq_iff_eq, ← BitVec.toNat_inj, key_toNat]; simp

/-- Settles O51: both skips test the one comparison of the sample, and a key is below 16. -/
theorem keySkipsCompareOneSample : Obligations.KeySkipsCompareOneSample := by
  intro x s pressed
  have keyIs : s.keyIs (s.getV x) = true ↔ pressed := s.keyIs_iff _
  refine ⟨⟨_, exec_skipIfKey x s, rfl, fun h => ?_, fun h => ?_⟩, ⟨_, exec_skipIfNotKey x s, rfl, fun h => ?_,
    fun h => ?_⟩, ?_⟩
  · simp [keyIs.mpr h]
  · simp [Bool.eq_false_iff.mpr (mt keyIs.mp h)]
  · simp [keyIs.mpr h]
  · simp [Bool.eq_false_iff.mpr (mt keyIs.mp h)]
  · rintro high ⟨k, -, hk⟩
    have := k.isLt
    omega

/-- Settles O55: the two cases of the sample are the two answers of Fx0A. -/
theorem waitKeyTakesHeldKeyOrWaits : Obligations.WaitKeyTakesHeldKeyOrWaits := by
  intro x s
  cases hk : s.inp.key with
  | none => exact ⟨_, exec_waitKey_none hk, fun k h => (nomatch h), fun _ => rfl⟩
  | some key =>
    refine ⟨_, exec_waitKey_some hk, fun k h => ⟨rfl, fun z => ?_⟩, fun h => nomatch h⟩
    obtain rfl : key = k := Option.some.inj h
    rw [State.getV_setV_toNat, key_toNat]

/-! ### Timers -/

/-- A service sets the tone to whether the sound timer is above 0 (R205). -/
theorem State.service_tone (s : State) : (s.timerPhase true).tone = decide (0 < s.ST.toNat) :=
  s.timerPhase_tone_eq_decide true

/-- A service says so with one output (R205). -/
theorem State.service_trace (s : State) :
    (s.timerPhase true).trace = s.trace ++ [.toneSet (decide (0 < s.ST.toNat))] := by
  rw [State.timerPhase_trace, if_pos rfl, bne_zero]

/-- A service changes timers, tone and outputs alone (R205). -/
theorem State.service_frame (s : State) : s.timerPhase true =
    { s with ST := (s.timerPhase true).ST, DT := (s.timerPhase true).DT, tone := (s.timerPhase true).tone,
             trace := (s.timerPhase true).trace } := rfl

/-- Without a tick the timer phase changes nothing (R205). -/
theorem State.timerPhase_false (s : State) : s.timerPhase false = s := by
  simp [State.timerPhase]

/-- A cycle is a run cycle's execute step or a wait cycle's poll, and then the timer phase (R75, R175). -/
theorem cycle_ends_with_timerPhase {s : State} {inp : CycleInput} (hr : s.nextRequest = .cycle inp) :
    ∃ u : State, step s = .next (u.timerPhase inp.tick) ∧
      ((s.mode = .run ∧ execWord s.fetchWord (s.takeRequest.latch inp).advance = .next u) ∨
       ∃ x, s.mode = .waitKey x ∧ u = (s.takeRequest.latch inp).pollKey x) := by
  cases hm : s.mode with
  | waitKey x => exact ⟨_, step_next_of_wait hm hr, .inr ⟨x, rfl, rfl⟩⟩
  | run =>
    cases hd : decode s.fetchWord with
    | instr i =>
      obtain ⟨u, hu, -⟩ := exec_changesOnlyListed i (s.sampled inp).advance
      exact ⟨u, step_next_of_exec hm hr hd hu, .inl ⟨rfl, by simpa [execWord, hd] using hu⟩⟩
    | unmatched c => exact ⟨_, step_next_of_unmatched hm hr hd, .inl ⟨rfl, by simp [execWord, hd]⟩⟩

/-- Settles O56: the phase field by field, and the three steps that run it. -/
theorem timerPhaseCountsDownAndDrivesTone : Obligations.TimerPhaseCountsDownAndDrivesTone := by
  refine ⟨fun s => ⟨s.timerPhase_false, _, rfl, ?_, s.timerPhase_ST_toNat true, s.timerPhase_DT_toNat true⟩,
    fun _ _ => step_service, fun _ _ => cycle_ends_with_timerPhase⟩
  rw [← s.service_trace, ← s.service_tone]
  exact s.service_frame

/-! ### Many services -/

/-- The sound timer after `n` services (R208). -/
theorem State.services_ST_toNat (s : State) (n : Nat) : (s.services n).ST.toNat = s.ST.toNat - n := by
  induction n with
  | zero => rfl
  | succ n ih => rw [State.services, State.timerPhase_ST_toNat, if_pos rfl, ih, Nat.sub_sub]

/-- The delay timer after `n` services (R208). -/
theorem State.services_DT_toNat (s : State) (n : Nat) : (s.services n).DT.toNat = s.DT.toNat - n := by
  induction n with
  | zero => rfl
  | succ n ih => rw [State.services, State.timerPhase_DT_toNat, if_pos rfl, ih, Nat.sub_sub]

/-- The outputs of `n` services: the tone on once for each count of the sound timer, then off (R208). -/
theorem State.services_trace (s : State) (n : Nat) : (s.services n).trace =
    s.trace ++ List.replicate (min n s.ST.toNat) (.toneSet true) ++
      List.replicate (n - s.ST.toNat) (.toneSet false) := by
  induction n with
  | zero => simp [State.services]
  | succ n ih =>
    rw [State.services, State.service_trace, ih, State.services_ST_toNat]
    by_cases sounding : n < s.ST.toNat
    · have on : 0 < s.ST.toNat - n := by omega
      have noOff : n - s.ST.toNat = 0 := by omega
      have noOff' : n + 1 - s.ST.toNat = 0 := by omega
      rw [decide_eq_true on, noOff, noOff', Nat.min_eq_left sounding.le, Nat.min_eq_left sounding,
        List.replicate_succ']
      simp
    · have off : ¬0 < s.ST.toNat - n := by omega
      have oneMore : n + 1 - s.ST.toNat = n - s.ST.toNat + 1 := by omega
      rw [decide_eq_false off, oneMore, Nat.min_eq_right (by omega), Nat.min_eq_right (by omega),
        List.replicate_succ' (n := n - s.ST.toNat)]
      simp

/-- The tone after at least one service is what the last one set (R208). -/
theorem State.services_tone (s : State) {n : Nat} (h : 0 < n) : (s.services n).tone = decide (n ≤ s.ST.toNat) := by
  obtain ⟨k, rfl⟩ := Nat.exists_eq_add_one.mpr h
  rw [State.services, State.service_tone, State.services_ST_toNat]
  simp only [Nat.sub_pos_iff_lt, Nat.succ_le_iff]

/-- Services change timers, tone and outputs alone. -/
theorem State.services_frame (s : State) (n : Nat) : s.services n =
    { s with ST := (s.services n).ST, DT := (s.services n).DT, tone := (s.services n).tone,
             trace := (s.services n).trace } := by
  induction n with
  | zero => rfl
  | succ n ih => rw [State.services, State.service_frame, ih]

/-- Settles O57: timers, outputs, tone and frame, each by induction on the services. -/
theorem servicesCountTimersDownToZero : Obligations.ServicesCountTimersDownToZero := fun n s =>
  ⟨_, rfl, s.services_ST_toNat n, s.services_DT_toNat n, s.services_trace n, s.services_tone, s.services_frame n⟩

end Sys2Proof.Machine
end
